-- ==== Sys2Proof/Word.lean ====
section
/-! DEFINITION. Words of the block: every access moves one byte (20_memory.md R50), the slave address has 7 bits
(00_scope.md R9). -/

namespace Sys2Proof

/-- A byte, 0..255, bit 7 the most significant (R11). -/
abbrev Byte := BitVec 8

/-- A 7-bit slave address (R9, R20 `addr7`). -/
abbrev Addr7 := BitVec 7

end Sys2Proof
end

