-- ==== Sys2Proof/Config.lean ====
section
/-! DEFINITION. The parameters of the block (00_scope.md R9; 92_eei_decisions.md section 4), with the defaults the spec
gives. They are fixed for a machine: `State.cfg` holds them, no step changes them, and every definition below reads
them from there, so a theorem over all states is a theorem over all parameter values (log entry 1). -/

namespace Sys2Proof

/-- The kind of interrupt request (D9, R127). The spec fixes `level`. `pulse` is the alternative machine of R241, one
`signal()` for each `BusEvent`, kept as the parameter `IRQ_KIND`. Recorded as R241 asks: the level kind ERRS TOWARD PROVING
TERMINATION if the real host pulses, since the model then serves an event that the host's call would lose and hang on.
UNSAFE in that direction (log entry 9). -/
inductive IrqKind where
  | level
  | pulse
  deriving DecidableEq, Repr

/-- The thirteen status codes `SC_*` (R72, D1). `srDataFinal` may be absent (R74, D2). Defaults: R72's column, which
the spec marks as general knowledge. -/
structure StatusCodes where
  srSlaAck       : BitVec 8 := 0x60#8
  srArbSlaAck    : BitVec 8 := 0x68#8
  srGcallAck     : BitVec 8 := 0x70#8
  srArbGcallAck  : BitVec 8 := 0x78#8
  srDataAck      : BitVec 8 := 0x80#8
  srDataFinal    : Option (BitVec 8) := some 0x88#8
  srGcallDataAck : BitVec 8 := 0x90#8
  srStop         : BitVec 8 := 0xA0#8
  stSlaAck       : BitVec 8 := 0xA8#8
  stArbSlaAck    : BitVec 8 := 0xB0#8
  stDataAck      : BitVec 8 := 0xB8#8
  stDataNack     : BitVec 8 := 0xC0#8
  stLastData     : BitVec 8 := 0xC8#8
  deriving DecidableEq, Repr

/-- The bit positions `CR_*` of the six named control bits (R31, D3). -/
structure ControlLayout where
  int   : Nat := 7
  ackEn : Nat := 6
  start : Nat := 5
  stop  : Nat := 4
  en    : Nat := 2
  intEn : Nat := 0
  deriving DecidableEq, Repr

/-- Every parameter of R9 and of section 4 of 92_eei_decisions.md. -/
structure Params where
  /-- `SLAVE_ADDR`, OPEN (D29): any value 0..127, checked by `Params.wf`. The default is the value of the spec's
  examples. -/
  slaveAddr     : Nat := 0x26
  codes         : StatusCodes := {}
  control       : ControlLayout := {}
  /-- `AR_ADDR_SHIFT`: the bit of `AR` where the address field begins (R30, D3). -/
  arAddrShift   : Nat := 1
  /-- `AR_GCE`: the bit of `AR` that holds the general-call-acceptance bit (R30, D3). -/
  arGce         : Nat := 0
  /-- `PRESCALER_MASK` (R34, D3). -/
  prescalerMask : BitVec 8 := 0x03#8
  /-- `CURSOR_BITS` (D11): a call needs `L ≤ 2^CURSOR_BITS − 1`. -/
  cursorBits    : Nat := 16
  /-- `DUMMY_BYTE` (D12). -/
  dummyByte     : BitVec 8 := 0x00#8
  irqKind       : IrqKind := .level
  /-- `GLOBAL_IE` (D28): the spec fixes it true. -/
  globalIe      : Bool := true
  deriving DecidableEq, Repr

/-- The parameters at the spec's defaults. -/
def Params.default : Params := {}

/-- `PAD_BYTE`: `0x00`, fixed by the source (R9). -/
def padByte : Byte := 0x00#8

end Sys2Proof
end

