-- ==== Sys2Proof/Syntax.lean ====
section
/-! DEFINITION. What the block is given and what it emits: modes, events, control words, outcomes, and `Instr`, one
constructor for each row of spec/opcode_table.json. -/

namespace Sys2Proof

/-- The mode of a call (R20, R21). -/
inductive Mode where
  | receive
  | respond
  deriving DecidableEq, Repr

/-- A logical bus event (R72): thirteen named ones and `Unrecognized(code)`. -/
inductive Event where
  | srSlaAck
  | srArbSlaAck
  | srGcallAck
  | srArbGcallAck
  | srDataAck
  | srDataFinal
  | srGcallDataAck
  | srStop
  | stSlaAck
  | stArbSlaAck
  | stDataAck
  | stDataNack
  | stLastData
  | unrecognized (code : Byte)
  deriving DecidableEq, Repr

/-- The eight bits of `CR` (R28, R31), as a word that is written or as the register's control state (R55): the six named
ones, and the two that have no name, by the order of their positions (3 and 1 by default; log entry 8). -/
structure Control where
  int   : Bool
  ackEn : Bool
  start : Bool
  stop  : Bool
  en    : Bool
  intEn : Bool
  unnamedHigh : Bool := false
  unnamedLow  : Bool := false
  deriving DecidableEq, Repr

/-- The closed set of errors (R190). No rule raises `notImplemented` (R195, C5). -/
inductive ErrorKind where
  | bufferOverflow
  | arbitrationLost
  | notExpectedTransactionDirection
  | unknownState (code : Byte)
  | notImplemented
  deriving DecidableEq, Repr

/-- What a call ends with (R190): `receive` succeeds without a payload, `respond` with the count of bytes. -/
inductive CallOutcome where
  | okReceive
  | okRespond (count : Nat)
  | err (e : ErrorKind)
  deriving DecidableEq, Repr

/-- One constructor for each row of spec/opcode_table.json. `rx…` and `tx…` are the rows of the two transition tables
(43_receive.md R150, 44_respond.md R177), then the three command words (R76), the address word (R77) and the eight
operations (R79). -/
inductive Instr where
  | rxSrSlaAck
  | rxSrArbSlaAck
  | rxSrGcallAck
  | rxSrArbGcallAck
  | rxSrDataAck
  | rxSrDataFinal
  | rxSrGcallDataAck
  | rxSrStop
  | rxStSlaAck
  | rxStArbSlaAck
  | rxStDataAck
  | rxStDataNack
  | rxStLastData
  | rxUnrecognized (code : Byte)
  | txSrSlaAck
  | txSrArbSlaAck
  | txSrGcallAck
  | txSrArbGcallAck
  | txSrDataAck
  | txSrDataFinal
  | txSrGcallDataAck
  | txSrStop
  | txStSlaAck
  | txStArbSlaAck
  | txStDataAck
  | txStDataNack
  | txStLastData
  | txUnrecognized (code : Byte)
  | cwArm
  | cwNack
  | cwDisarmed
  | arWord (addr : Addr7) (gce : Bool)
  | configure (gce : Bool)
  | arm
  | disarmAndReset
  | signal
  | takeObserve
  | takeClear
  | receive (buffer : List Byte)
  | respond (buffer : List Byte)
  deriving DecidableEq, Repr

/-- The formats of R70, R76 and R77. A status byte is read under the mode of the call (R75): the two transition tables
share their codes, and nothing in the byte tells them apart. -/
inductive Format where
  | status (m : Mode)
  | control
  | address
  deriving DecidableEq, Repr

end Sys2Proof
end

