-- ==== Sys2Proof/WellFormed.lean ====
section
/-! DEFINITION. Which configurations and which instructions are well formed (R9, R10, R74, U5, U13). -/

namespace Sys2Proof

/-- No two entries of the list are equal. -/
def allDistinct {α : Type} [DecidableEq α] : List α → Bool
  | [] => true
  | x :: xs => !xs.contains x && allDistinct xs

/-- The status codes that are present, in the order of R72. -/
def StatusCodes.toList (c : StatusCodes) : List Byte :=
  [c.srSlaAck, c.srArbSlaAck, c.srGcallAck, c.srArbGcallAck, c.srDataAck, c.srGcallDataAck, c.srStop,
    c.stSlaAck, c.stArbSlaAck, c.stDataAck, c.stDataNack, c.stLastData] ++ c.srDataFinal.toList

/-- R10 (a): the codes that are present are pairwise distinct. -/
def Params.codesDistinct (p : Params) : Bool := allDistinct p.codes.toList

/-- R10 (b): each code has all `PRESCALER_MASK` bits zero. -/
def Params.codesClearOfPrescaler (p : Params) : Bool :=
  p.codes.toList.all fun c => c &&& p.prescalerMask == 0#8

/-- The six positions of the control register. -/
def ControlLayout.toList (l : ControlLayout) : List Nat := [l.int, l.ackEn, l.start, l.stop, l.en, l.intEn]

/-- R10 (c), D3: the named control bits are distinct positions among 0..7. -/
def ControlLayout.wf (l : ControlLayout) : Bool := allDistinct l.toList && l.toList.all (· < 8)

/-- R10 (d): the 7-bit address field and the general-call bit lie inside `AR` and do not overlap. -/
def Params.addressFieldsDisjoint (p : Params) : Bool :=
  p.arAddrShift + 7 ≤ 8 && p.arGce < 8 && (p.arGce < p.arAddrShift || p.arAddrShift + 7 ≤ p.arGce)

/-- U13: the slave address is a 7-bit value. -/
def Params.slaveAddrFits (p : Params) : Bool := p.slaveAddr < 128

/-- R10: a configuration that breaks a constraint is refused. -/
def Params.wf (p : Params) : Bool :=
  p.codesDistinct && p.codesClearOfPrescaler && p.control.wf && p.addressFieldsDisjoint && p.slaveAddrFits

/-- The largest buffer length a call accepts, `2^CURSOR_BITS − 1` (R9, R141). -/
def Params.maxLen (p : Params) : Nat := 2 ^ p.cursorBits - 1

/-- A byte that `Unrecognized` can carry: a snapshot (no prescaler bit set, R71) that is no named code (R73). -/
def Params.isUnnamedSnapshot (p : Params) (c : Byte) : Bool :=
  c &&& p.prescalerMask == 0#8 && !p.codes.toList.contains c

/-- The checks on an instruction: `Unrecognized(s)` carries no named code (R73); the rows of `SR_DATA_FINAL` exist
only while its code is present (R74); a call's buffer is at most `2^CURSOR_BITS − 1` bytes long (U13). -/
def Instr.wf (p : Params) : Instr → Bool
  | .rxUnrecognized c => p.isUnnamedSnapshot c
  | .txUnrecognized c => p.isUnnamedSnapshot c
  | .rxSrDataFinal => p.codes.srDataFinal.isSome
  | .txSrDataFinal => p.codes.srDataFinal.isSome
  | .receive buf => buf.length ≤ p.maxLen
  | .respond buf => buf.length ≤ p.maxLen
  | .rxSrSlaAck | .rxSrArbSlaAck | .rxSrGcallAck | .rxSrArbGcallAck | .rxSrDataAck | .rxSrGcallDataAck | .rxSrStop
  | .rxStSlaAck | .rxStArbSlaAck | .rxStDataAck | .rxStDataNack | .rxStLastData
  | .txSrSlaAck | .txSrArbSlaAck | .txSrGcallAck | .txSrArbGcallAck | .txSrDataAck | .txSrGcallDataAck | .txSrStop
  | .txStSlaAck | .txStArbSlaAck | .txStDataAck | .txStDataNack | .txStLastData
  | .cwArm | .cwNack | .cwDisarmed | .arWord _ _
  | .configure _ | .arm | .disarmAndReset | .signal | .takeObserve | .takeClear => true

end Sys2Proof
end

