-- ==== Sys2Proof/Decode.lean ====
section
/-! DEFINITION. The status decoder and the row lookup (30_encoding.md R71 to R75, R150, R177), the command words and
the address word (R76, R77), the outcome tags (R78); the decoder of the three formats, total on any bytes, and after it
the encoder. -/

namespace Sys2Proof

/-- The byte whose only set bit is bit `n`. -/
def bitAt (n : Nat) : Byte := 1#8 <<< n

/-- R71: the snapshot is the byte read with the prescaler bits cleared. -/
def snapshotOf (p : Params) (raw : Byte) : Byte := raw &&& ~~~p.prescalerMask

/-- R72: `decode`, the event of the first row whose code equals `s`, all eight bits compared. -/
def decodeEvent (p : Params) (s : Byte) : Event :=
  if s = p.codes.srSlaAck then .srSlaAck
  else if s = p.codes.srArbSlaAck then .srArbSlaAck
  else if s = p.codes.srGcallAck then .srGcallAck
  else if s = p.codes.srArbGcallAck then .srArbGcallAck
  else if s = p.codes.srDataAck then .srDataAck
  else if some s = p.codes.srDataFinal then .srDataFinal
  else if s = p.codes.srGcallDataAck then .srGcallDataAck
  else if s = p.codes.srStop then .srStop
  else if s = p.codes.stSlaAck then .stSlaAck
  else if s = p.codes.stArbSlaAck then .stArbSlaAck
  else if s = p.codes.stDataAck then .stDataAck
  else if s = p.codes.stDataNack then .stDataNack
  else if s = p.codes.stLastData then .stLastData
  else .unrecognized s

/-- R75: the row of (`mode`, `event`). The lookup reads nothing else. -/
def rowInstr : Mode → Event → Instr
  | .receive, .srSlaAck => .rxSrSlaAck
  | .receive, .srArbSlaAck => .rxSrArbSlaAck
  | .receive, .srGcallAck => .rxSrGcallAck
  | .receive, .srArbGcallAck => .rxSrArbGcallAck
  | .receive, .srDataAck => .rxSrDataAck
  | .receive, .srDataFinal => .rxSrDataFinal
  | .receive, .srGcallDataAck => .rxSrGcallDataAck
  | .receive, .srStop => .rxSrStop
  | .receive, .stSlaAck => .rxStSlaAck
  | .receive, .stArbSlaAck => .rxStArbSlaAck
  | .receive, .stDataAck => .rxStDataAck
  | .receive, .stDataNack => .rxStDataNack
  | .receive, .stLastData => .rxStLastData
  | .receive, .unrecognized c => .rxUnrecognized c
  | .respond, .srSlaAck => .txSrSlaAck
  | .respond, .srArbSlaAck => .txSrArbSlaAck
  | .respond, .srGcallAck => .txSrGcallAck
  | .respond, .srArbGcallAck => .txSrArbGcallAck
  | .respond, .srDataAck => .txSrDataAck
  | .respond, .srDataFinal => .txSrDataFinal
  | .respond, .srGcallDataAck => .txSrGcallDataAck
  | .respond, .srStop => .txSrStop
  | .respond, .stSlaAck => .txStSlaAck
  | .respond, .stArbSlaAck => .txStArbSlaAck
  | .respond, .stDataAck => .txStDataAck
  | .respond, .stDataNack => .txStDataNack
  | .respond, .stLastData => .txStLastData
  | .respond, .unrecognized c => .txUnrecognized c

/-- The positions of `CR` that have no name (R31), in rising order. -/
def ControlLayout.unnamed (l : ControlLayout) : List Nat := (List.range 8).filter fun n => !l.toList.contains n

/-- The lower of the two unnamed positions (1 by default). -/
def ControlLayout.unnamedLow (l : ControlLayout) : Nat := l.unnamed.getD 0 0

/-- The higher of the two unnamed positions (3 by default). -/
def ControlLayout.unnamedHigh (l : ControlLayout) : Nat := l.unnamed.getD 1 0

/-- R28, R31, R76: the byte with the given bits at their positions: a word to write, or `CR` itself as a byte. -/
def ControlLayout.word (l : ControlLayout) (c : Control) : Byte :=
  (if c.int then bitAt l.int else 0#8) ||| (if c.ackEn then bitAt l.ackEn else 0#8) |||
    (if c.start then bitAt l.start else 0#8) ||| (if c.stop then bitAt l.stop else 0#8) |||
    (if c.en then bitAt l.en else 0#8) ||| (if c.intEn then bitAt l.intEn else 0#8) |||
    (if c.unnamedHigh then bitAt l.unnamedHigh else 0#8) ||| (if c.unnamedLow then bitAt l.unnamedLow else 0#8)

/-- The bits of a byte, each from its position. -/
def ControlLayout.fields (l : ControlLayout) (v : Byte) : Control where
  int := v.getLsbD l.int
  ackEn := v.getLsbD l.ackEn
  start := v.getLsbD l.start
  stop := v.getLsbD l.stop
  en := v.getLsbD l.en
  intEn := v.getLsbD l.intEn
  unnamedHigh := v.getLsbD l.unnamedHigh
  unnamedLow := v.getLsbD l.unnamedLow

/-- R76, R103: `CW_ARM`. -/
def cwArmWord (p : Params) : Byte :=
  p.control.word { int := true, ackEn := true, start := false, stop := false, en := true, intEn := true }

/-- R76, R105: `CW_NACK`, which is `CW_ARM` with acknowledge-enable clear. -/
def cwNackWord (p : Params) : Byte :=
  p.control.word { int := true, ackEn := false, start := false, stop := false, en := true, intEn := true }

/-- R76, R106: `CW_DISARMED`, all bits zero. -/
def cwDisarmedWord (p : Params) : Byte :=
  p.control.word { int := false, ackEn := false, start := false, stop := false, en := false, intEn := false }

/-- R77: the address word, the 7-bit address in its field and the general-call bit beside it. -/
def addressWord (p : Params) (addr : Addr7) (gce : Bool) : Byte :=
  (addr.setWidth 8 <<< p.arAddrShift) ||| (if gce then bitAt p.arGce else 0#8)

/-- R30: the address field of `AR`. -/
def addressField (p : Params) (v : Byte) : Addr7 := (v >>> p.arAddrShift).setWidth 7

/-- R30: the general-call-acceptance bit of `AR`. -/
def gceField (p : Params) (v : Byte) : Bool := v.getLsbD p.arGce

/-- Why bytes are not an instruction. -/
inductive DecodeError where
  /-- There is no byte to read. -/
  | noByte
  /-- The byte is none of the three command words, the only values the block writes to `CR` (R76, R111). -/
  | notACommandWord (b : Byte)
  deriving DecidableEq, Repr

/-- R76: the command word `b`, or a rejection by name. -/
def decodeControl (p : Params) (b : Byte) : Except DecodeError Instr :=
  if b = cwArmWord p then .ok .cwArm
  else if b = cwNackWord p then .ok .cwNack
  else if b = cwDisarmedWord p then .ok .cwDisarmed
  else .error (.notACommandWord b)

/-- A status byte under a mode: snapshot, decode, look up the row (R71, R72, R75). Total over all 256 bytes (R80). -/
def decodeStatus (p : Params) (m : Mode) (raw : Byte) : Instr := rowInstr m (decodeEvent p (snapshotOf p raw))

/-- R77: every byte is an address word, since the two fields cover `AR`. -/
def decodeAddress (p : Params) (b : Byte) : Instr := .arWord (addressField p b) (gceField p b)

/-- One instruction from the front of the bytes, with the bytes after it. Every format is one byte (R70, R76, R77,
R81). -/
def decode (p : Params) (f : Format) : List Byte → Except DecodeError (Instr × List Byte)
  | [] => .error .noByte
  | b :: rest =>
    match f with
    | .status m => .ok (decodeStatus p m b, rest)
    | .control => (decodeControl p b).map fun i => (i, rest)
    | .address => .ok (decodeAddress p b, rest)

/-- The code of an event (R72): the parameter of a named event, which may be absent for `SR_DATA_FINAL` (R74), or the
byte that `Unrecognized` carries. -/
def Event.code (p : Params) : Event → Option Byte
  | .srSlaAck => some p.codes.srSlaAck
  | .srArbSlaAck => some p.codes.srArbSlaAck
  | .srGcallAck => some p.codes.srGcallAck
  | .srArbGcallAck => some p.codes.srArbGcallAck
  | .srDataAck => some p.codes.srDataAck
  | .srDataFinal => p.codes.srDataFinal
  | .srGcallDataAck => some p.codes.srGcallDataAck
  | .srStop => some p.codes.srStop
  | .stSlaAck => some p.codes.stSlaAck
  | .stArbSlaAck => some p.codes.stArbSlaAck
  | .stDataAck => some p.codes.stDataAck
  | .stDataNack => some p.codes.stDataNack
  | .stLastData => some p.codes.stLastData
  | .unrecognized c => some c

/-- The status byte of a row, with its format. -/
def encodeRow (p : Params) (m : Mode) (e : Event) : Option (Format × List Byte) :=
  (e.code p).map fun c => (.status m, [c])

/-- The word of a well-formed instruction, written from R72, R76 and R77. The eight operations have no binary encoding
(R79), so they have no word. -/
def encode (p : Params) : Instr → Option (Format × List Byte)
  | .rxSrSlaAck => encodeRow p .receive .srSlaAck
  | .rxSrArbSlaAck => encodeRow p .receive .srArbSlaAck
  | .rxSrGcallAck => encodeRow p .receive .srGcallAck
  | .rxSrArbGcallAck => encodeRow p .receive .srArbGcallAck
  | .rxSrDataAck => encodeRow p .receive .srDataAck
  | .rxSrDataFinal => encodeRow p .receive .srDataFinal
  | .rxSrGcallDataAck => encodeRow p .receive .srGcallDataAck
  | .rxSrStop => encodeRow p .receive .srStop
  | .rxStSlaAck => encodeRow p .receive .stSlaAck
  | .rxStArbSlaAck => encodeRow p .receive .stArbSlaAck
  | .rxStDataAck => encodeRow p .receive .stDataAck
  | .rxStDataNack => encodeRow p .receive .stDataNack
  | .rxStLastData => encodeRow p .receive .stLastData
  | .rxUnrecognized c => encodeRow p .receive (.unrecognized c)
  | .txSrSlaAck => encodeRow p .respond .srSlaAck
  | .txSrArbSlaAck => encodeRow p .respond .srArbSlaAck
  | .txSrGcallAck => encodeRow p .respond .srGcallAck
  | .txSrArbGcallAck => encodeRow p .respond .srArbGcallAck
  | .txSrDataAck => encodeRow p .respond .srDataAck
  | .txSrDataFinal => encodeRow p .respond .srDataFinal
  | .txSrGcallDataAck => encodeRow p .respond .srGcallDataAck
  | .txSrStop => encodeRow p .respond .srStop
  | .txStSlaAck => encodeRow p .respond .stSlaAck
  | .txStArbSlaAck => encodeRow p .respond .stArbSlaAck
  | .txStDataAck => encodeRow p .respond .stDataAck
  | .txStDataNack => encodeRow p .respond .stDataNack
  | .txStLastData => encodeRow p .respond .stLastData
  | .txUnrecognized c => encodeRow p .respond (.unrecognized c)
  | .cwArm => some (.control, [cwArmWord p])
  | .cwNack => some (.control, [cwNackWord p])
  | .cwDisarmed => some (.control, [cwDisarmedWord p])
  | .arWord a g => some (.address, [addressWord p a g])
  | .configure _ | .arm | .disarmAndReset | .signal | .takeObserve | .takeClear | .receive _ | .respond _ => none

/-- R78: the tag of an outcome. -/
def CallOutcome.tag : CallOutcome → Nat
  | .okReceive => 0
  | .okRespond _ => 0
  | .err .bufferOverflow => 1
  | .err .arbitrationLost => 2
  | .err .notExpectedTransactionDirection => 3
  | .err (.unknownState _) => 4
  | .err .notImplemented => 5

/-- R78: the payload of an outcome, where it has one. -/
def CallOutcome.payload : CallOutcome → Option Nat
  | .okRespond n => some n
  | .err (.unknownState c) => some c.toNat
  | .okReceive => none
  | .err .bufferOverflow => none
  | .err .arbitrationLost => none
  | .err .notExpectedTransactionDirection => none
  | .err .notImplemented => none

/-- R78 read the other way: the outcome of a call of the given mode whose result port shows `tag` and `payload`. -/
def outcomeOfPort : Mode → Nat → Option Nat → Option CallOutcome
  | .receive, 0, none => some .okReceive
  | .respond, 0, some n => some (.okRespond n)
  | _, 1, none => some (.err .bufferOverflow)
  | _, 2, none => some (.err .arbitrationLost)
  | _, 3, none => some (.err .notExpectedTransactionDirection)
  | _, 4, some c => if c < 256 then some (.err (.unknownState (BitVec.ofNat 8 c))) else none
  | _, 5, none => some (.err .notImplemented)
  | _, _, _ => none

/-- The row of spec/opcode_table.json that a byte of unsaid kind stands for, the rows taken in the table's order: a
named status code read under RECEIVE, then a command word, then the default row of RECEIVE (log entry 11). The machine
itself never guesses: the engine decodes a status byte under the call's mode (`decodeStatus`). -/
def tableInstr (p : Params) (b : Byte) : Instr :=
  match decodeEvent p (snapshotOf p b) with
  | .unrecognized c =>
    match decodeControl p b with
    | .ok i => i
    | .error _ => .rxUnrecognized c
  | e => rowInstr .receive e

/-- The host's question: the instruction that the decoder reads from a table row's word (every row has one byte). -/
def decodeTableWord (nbits w : Nat) : Option Instr :=
  if nbits = 8 ∧ w < 256 then some (tableInstr .default (BitVec.ofNat 8 w)) else none

end Sys2Proof
end

