-- ==== Sys2Proof/Machine/Memory.lean ====
section
/-! DEFINITION. The buffer `BUF`, the only memory (10_state.md R37): a list of (index, byte) pairs in one canonical
form, indices strictly rising and no listed byte `0x00`. An unlisted index reads as `0x00`. The caller supplies every
byte of the buffer at call start (R38), so this is a way of writing the buffer down and not a value chosen for
memory that nothing has written (log entry 7). -/

namespace Sys2Proof.Machine

abbrev Memory := List Host.Cell

/-- What an unlisted index reads as. -/
def Memory.unlisted : Byte := 0#8

/-- Strictly rising indices, all at least `lo`, and no entry equal to the unlisted byte. -/
def Memory.wfFrom (lo : Nat) : Memory → Bool
  | [] => true
  | (a, v) :: rest => decide (lo ≤ a) && v != Memory.unlisted && Memory.wfFrom (a + 1) rest

/-- The canonical form. -/
def Memory.wf (m : Memory) : Bool := Memory.wfFrom 0 m

/-- Every listed index is below `n`. -/
def Memory.below (n : Nat) : Memory → Bool
  | [] => true
  | (a, _) :: rest => decide (a < n) && Memory.below n rest

/-- The byte at an index. -/
def Memory.read : Memory → Nat → Byte
  | [], _ => Memory.unlisted
  | (a, v) :: rest, i => if i = a then v else Memory.read rest i

/-- An entry put before a list whose indices are higher, left out where it says no more than an unlisted index. -/
def Memory.entry (i : Nat) (v : Byte) (rest : Memory) : Memory :=
  if v = Memory.unlisted then rest else (i, v) :: rest

/-- One byte written, the canonical form kept. -/
def Memory.write : Memory → Nat → Byte → Memory
  | [], i, v => Memory.entry i v []
  | (a, w) :: rest, i, v =>
    if i < a then Memory.entry i v ((a, w) :: rest)
    else if i = a then Memory.entry i v rest
    else (a, w) :: Memory.write rest i v

/-- The bytes of a caller's buffer, the first at index `i`. -/
def Memory.ofBytesFrom (i : Nat) : List Byte → Memory
  | [] => []
  | v :: rest => Memory.entry i v (Memory.ofBytesFrom (i + 1) rest)

/-- A caller's buffer, indices 0..L−1 (R37, R51). -/
def Memory.ofBytes (bytes : List Byte) : Memory := Memory.ofBytesFrom 0 bytes

/-- The first `n` bytes, in index order. -/
def Memory.toBytes (m : Memory) (n : Nat) : List Byte := (List.range n).map (Memory.read m)

end Sys2Proof.Machine
end

