-- ==== Sys2Proof/Machine/State.lean ====
section
/-! DEFINITION. The state of the block and its neighbours (10_state.md), as plain data; the reasons a step can stop;
the state after reset (70_reset_and_hazards.md R221). INVENTORY.md, "State", lists every field with its rule. -/

namespace Sys2Proof.Machine

/-- The engine's phase register (R24), the analogue of a program counter. -/
inductive Phase where
  | idle
  | wait
  | snapshot
  | act
  | clear
  | done
  deriving DecidableEq, Repr

/-- One access of the polling context, or one step of another agent, in the notation of 95_test_vectors.md. The list
`State.trace` records them, as R243 asks ("a model records exactly that"). -/
inductive Access where
  /-- `F?=b` -/
  | flagRead (b : Bool)
  /-- `F<-0` -/
  | flagClear
  /-- `R SR=v`, the raw byte -/
  | srRead (v : Byte)
  /-- `R DR=v` -/
  | drRead (v : Byte)
  /-- `W AR v` -/
  | arWrite (v : Byte)
  /-- `W CR v` -/
  | crWrite (v : Byte)
  /-- `W DR v` -/
  | drWrite (v : Byte)
  /-- `R BUF[i]=v` -/
  | bufRead (i : Nat) (v : Byte)
  /-- `W BUF[i] v` -/
  | bufWrite (i : Nat) (v : Byte)
  /-- `S`, one `signal()` that was enabled -/
  | signal
  /-- `EV(s,d)`, one `BusEvent` that was enabled -/
  | busEvent (s : Byte) (d : Option Byte)
  deriving DecidableEq, Repr

/-- A move of an agent other than the polling context. -/
inductive EnvMove where
  /-- The interrupt context tries `signal()` (R121). -/
  | signal
  /-- The bus environment tries `BusEvent(s, d)` (R65); an event with a `d` delivers that byte, one without delivers none.
  A data event delivers one (log entry 24). -/
  | bus (s : Byte) (d : Option Byte)
  /-- The clock configuration, which is out of scope, holds these prescaler bits in `SR` (R34, U4). -/
  | prescaler (v : Byte)
  deriving DecidableEq, Repr

/-- A move of the schedule. The schedule and the event script are inputs (R41). The spec lets the other two agents move
between any two accesses of the polling context (R134), so a move of the polling context carries `gaps`: the moves made
before its second access, before its third, and so on (log entry 5). -/
inductive Move where
  /-- The engine takes the next step of its phase (R132 to R136). -/
  | engine (gaps : List (List EnvMove))
  /-- The caller issues an operation (R79). -/
  | caller (op : Instr) (gaps : List (List EnvMove))
  /-- Another agent moves. -/
  | env (e : EnvMove)
  deriving DecidableEq, Repr

/-- A working register that has a value only while its lifetime lasts (R20, R23). -/
inductive Reg where
  | mode
  | cursor
  | len
  | snapshot
  | event
  | outcome
  deriving DecidableEq, Repr

/-- What the DONE step hands to the caller (R136): the outcome and, again, the buffer. -/
structure Delivery where
  outcome : CallOutcome
  buf     : Memory
  len     : Nat
  deriving DecidableEq, Repr

/-- Faults of the model, distinct from the outcomes of the block (93_implementation_defined.md, part 1). -/
inductive Fault where
  /-- Raised by a read of a working register that has no value (R27, U3: "fault"). Safe: the spec calls such a read an
  error of the model. No state of the invariant reaches it. -/
  | noValue (r : Reg)
  /-- Raised by `memRead` and `memWrite` at an index not below `L` (R52: "a model should make an out-of-range buffer
  access a fault"). Safe: the rules never issue one. -/
  | bufferIndexOutOfRange (i : Nat)
  deriving DecidableEq, Repr

/-- What the model does not accept. -/
inductive Refusal where
  /-- The instruction has no meaning yet; raised by `exec` only. Safe. No arm uses it. -/
  | notModelled (mnemonic : String)
  /-- Raised by `step` when the configuration breaks a constraint of R10 (U5, U13: "refuse"). Safe. -/
  | badConfiguration
  /-- Raised by `configure`, `arm`, `receive` and `respond` while `phase ≠ IDLE` (R110, R206, U2: "refuse"). The
  spec gives a breach no meaning; a real caller that broke the rule would corrupt the transaction (D20), so the model hides
  misuse and no claim speaks of it. Safe. -/
  | operationDuringCall
  /-- Raised by `receive` and `respond` on a buffer longer than `2^CURSOR_BITS − 1` (U13: "refuse"). Safe. -/
  | bufferTooLong
  /-- Raised by `step` when the caller's move is an operation of the engine or of the interrupt context, a bare word to
  `CR` or `AR` included (R29, R79, R110, R205, R206, U14: "refuse"). Safe. -/
  | notACallerOperation
  deriving DecidableEq, Repr

/-- The state. -/
structure State where
  /-- The parameters of R9; no step changes them (log entry 1). -/
  cfg : Params
  /-- `addr7` (R20), fixed at construction. -/
  addr7 : Addr7
  /-- `mode` (R20, R21); no value outside a call. -/
  mode : Option Mode
  /-- `cursor` (R20, R22); no value outside a call. -/
  cursor : Option Nat
  /-- `L` (R20), the buffer's length; no value outside a call. -/
  len : Option Nat
  /-- `snapshot` (R20, R71). -/
  snapshot : Option Byte
  /-- `event` (R20, R72). -/
  event : Option Event
  /-- `outcome` (R20, R190): none until a terminal row raises one. -/
  outcome : Option CallOutcome
  /-- `phase` (R20, R24). -/
  phase : Phase
  /-- The completion flag (R25 a). -/
  flag : Bool
  /-- The address register (R30). -/
  ar : Byte
  /-- The control register, its eight bits (R28, R31, R55); as a byte it is `cfg.control.word cr` (log entry 8). -/
  cr : Control
  /-- The status register, status field and prescaler bits (R34). -/
  sr : Byte
  /-- The data register (R35). -/
  dr : Byte
  /-- The pulse that has not reached the handler yet. Only `IRQ_KIND = pulse` sets it (D9, log entry 9). -/
  edge : Bool
  /-- `BUF` (R37, R38). -/
  buf : Memory
  /-- What the calls so far have handed to the caller, the latest first (R136). The model's own. -/
  delivered : List Delivery
  /-- The accesses issued so far, the latest first (R243). The model's own. -/
  trace : List Access
  /-- The moves that the agents will make, the next one first (R41). The model's own. -/
  agenda : List Move
  /-- What is left of the `gaps` of the move being made. The model's own. -/
  gaps : List (List EnvMove)
  deriving DecidableEq, Repr

/-- The three outcomes of a step of this machine. -/
abbrev Result := Host.Outcome State Fault Refusal

/-- R220, R221: the moment the driver instance and the flag are created, for any parameters and for any bytes in the
three registers whose reset value the spec leaves unspecified (R222). -/
def State.boot (p : Params) (ar sr dr : Byte) : State where
  cfg := p
  addr7 := BitVec.ofNat 7 p.slaveAddr
  mode := none
  cursor := none
  len := none
  snapshot := none
  event := none
  outcome := none
  phase := .idle
  flag := false
  ar := ar
  cr :=
    { int := false, ackEn := false, start := false, stop := false, en := false, intEn := false
      unnamedHigh := false, unnamedLow := false }
  sr := sr
  dr := dr
  edge := false
  buf := []
  delivered := []
  trace := []
  agenda := []
  gaps := []

/-- The machine right after reset, with the default parameters. `AR`, `SR` and `DR` hold the reset values of the family
whose layout is the default (G6; log entry 2, PRESUMED); nothing is stated that rests on those three bytes. -/
def State.reset : State := .boot .default 0xFE#8 0xF8#8 0xFF#8

end Sys2Proof.Machine
end

