-- ==== Sys2Proof/Machine/Flags.lean ====
section
/-! DEFINITION. The flag computations: the write to `CR` with its write-1-to-clear `INT` (R55), the predicates
`Disarmed` and `Armed` (R33), the interrupt request (R127, R198) and the enabling condition of `BusEvent` (R65). -/

namespace Sys2Proof.Machine

/-- R55: the control state after the bits `v` are written over `c`. Writing `INT = 1` clears the pending flag, writing
`INT = 0` leaves it; the unnamed bits are written as 0, whatever `v` has there. -/
def controlAfterWrite (c v : Control) : Control where
  int := c.int && !v.int
  ackEn := v.ackEn
  start := v.start
  stop := v.stop
  en := v.en
  intEn := v.intEn
  unnamedHigh := false
  unnamedLow := false

/-- R33: `Disarmed(CR)`. It does not read `INT`. -/
def isDisarmed (c : Control) : Bool := !c.ackEn && !c.en && !c.intEn && !c.start && !c.stop

/-- R33: `Armed(CR)`. It reads neither `INT` nor `ACK_EN`. -/
def isArmed (c : Control) : Bool := c.en && c.intEn && !c.start && !c.stop

/-- The interrupt request: `IRQ = CR.INT AND CR.INT_EN` for the level kind (R127, R198), under the host's mask (D28).
For the pulse kind it is the pulse not yet handled, while `INT_EN = 1` (D9, R200; log entry 9). -/
def irq (s : State) : Bool :=
  (match s.cfg.irqKind with
    | .level => s.cr.int
    | .pulse => s.edge) && s.cr.intEn && s.cfg.globalIe

/-- R65: `BusEvent` is enabled when `CR.EN = 1` and `CR.INT = 0`. -/
def busEnabled (s : State) : Bool := s.cr.en && !s.cr.int

/-- A status byte of one of the two data events (R155, R157, R162), whose row reads `DR`: the bus environment has placed
the received byte there (R35, R222). -/
def isDataStatus (p : Params) (v : Byte) : Bool :=
  match decodeEvent p (snapshotOf p v) with
  | .srDataAck => true
  | .srGcallDataAck => true
  | _ => false

/-- `(v, d)` is a bus event: a data event delivers its byte, so that the block never reads a `DR` that none has written
(R35, R222); any other event may deliver one or not (log entry 24). -/
def isBusEvent (p : Params) (v : Byte) (d : Option Byte) : Bool := d.isSome || !isDataStatus p v

end Sys2Proof.Machine
end

