-- ==== Sys2Proof/Machine/Operands.lean ====
section
/-! DEFINITION. The operand forms: the working registers, read through one accessor each (a read of a register with no
value faults, R27), the registers `SR` and `DR` (R108, R109), and the buffer byte at an index (R52). -/

namespace Sys2Proof.Machine

/-- `mode` as an operand. -/
def readMode (s : State) (k : Mode → Result) : Result :=
  match s.mode with
  | some m => k m
  | none => .fault (.noValue .mode)

/-- `cursor` as an operand. -/
def readCursor (s : State) (k : Nat → Result) : Result :=
  match s.cursor with
  | some c => k c
  | none => .fault (.noValue .cursor)

/-- `L` as an operand. -/
def readLen (s : State) (k : Nat → Result) : Result :=
  match s.len with
  | some l => k l
  | none => .fault (.noValue .len)

/-- `snapshot` as an operand. -/
def readSnapshot (s : State) (k : Byte → Result) : Result :=
  match s.snapshot with
  | some v => k v
  | none => .fault (.noValue .snapshot)

/-- `event` as an operand. -/
def readEvent (s : State) (k : Event → Result) : Result :=
  match s.event with
  | some e => k e
  | none => .fault (.noValue .event)

/-- `outcome` as an operand. -/
def readOutcome (s : State) (k : CallOutcome → Result) : Result :=
  match s.outcome with
  | some o => k o
  | none => .fault (.noValue .outcome)

/-- Another item in the record of accesses. -/
def State.record (a : Access) (s : State) : State := { s with trace := a :: s.trace }

/-- R56: `IoRead(SR)`, the raw byte; no side effect. -/
def ioReadSr (s : State) (k : Byte → State → Result) : Result := k s.sr (s.record (.srRead s.sr))

/-- R57, R108: `IoRead(DR)`; no side effect. -/
def ioReadDr (s : State) (k : Byte → State → Result) : Result := k s.dr (s.record (.drRead s.dr))

/-- R123: `FlagRead()`; it changes nothing. -/
def flagRead (s : State) (k : Bool → State → Result) : Result := k s.flag (s.record (.flagRead s.flag))

/-- R52: `MemRead(BUF, i, 1)`, defined for `i < L`. -/
def memRead (i : Nat) (s : State) (k : Byte → State → Result) : Result :=
  readLen s fun l =>
    if i < l then k (s.buf.read i) (s.record (.bufRead i (s.buf.read i)))
    else .fault (.bufferIndexOutOfRange i)

/-- R52: `MemWrite(BUF, i, 1, v)`, defined for `i < L`. -/
def memWrite (i : Nat) (v : Byte) (s : State) (k : State → Result) : Result :=
  readLen s fun l =>
    if i < l then k ({ s with buf := s.buf.write i v }.record (.bufWrite i v))
    else .fault (.bufferIndexOutOfRange i)

end Sys2Proof.Machine
end

