-- ==== Sys2Proof/Machine/Ops.lean ====
section
/-! DEFINITION. The shared operations: the register writes and command words (R55 to R58, R104 to R107), the flag
(R121, R124), the moves of the bus environment and of the interrupt context (R65, R121), the gap between two accesses
(R134), a call's start (R130, R131), raising a terminal outcome and the return from it (R203, R136). -/

namespace Sys2Proof.Machine

/-! ### Register writes -/

/-- R58: `IoWrite(AR, v)`. -/
def ioWriteAr (v : Byte) (s : State) : State := { s with ar := v }.record (.arWrite v)

/-- R57, R107: `IoWrite(DR, v)`. -/
def ioWriteDr (v : Byte) (s : State) : State := { s with dr := v }.record (.drWrite v)

/-- R55: `IoWrite(CR, v)`, one atomic write of all eight bits. -/
def ioWriteCr (v : Byte) (s : State) : State :=
  { s with cr := controlAfterWrite s.cr (s.cfg.control.fields v) }.record (.crWrite v)

/-- R102, R104: `IoWrite(CR, CW_ARM)`, "re-arm", "ACK-next". -/
def commandArm (s : State) : State := ioWriteCr (cwArmWord s.cfg) s

/-- R105: `IoWrite(CR, CW_NACK)`, "NACK-next". -/
def commandNack (s : State) : State := ioWriteCr (cwNackWord s.cfg) s

/-- R106: `IoWrite(CR, CW_DISARMED)`, "disarm". -/
def commandDisarm (s : State) : State := ioWriteCr (cwDisarmedWord s.cfg) s

/-! ### The flag and the agents beside the polling context -/

/-- R124: `FlagWrite(false)`. -/
def flagClear (s : State) : State := { s with flag := false }.record .flagClear

/-- R121, R127: `signal()`, a step of the interrupt context while `IRQ = 1`, no step otherwise. It touches nothing but
the flag; the pulse kind also uses up its pulse (D9). -/
def signalStep (s : State) : State :=
  if irq s then
    { s with
      flag := true
      edge := match s.cfg.irqKind with
        | .level => s.edge
        | .pulse => false }.record .signal
  else s

/-- R65: `BusEvent(s, d)`. The prescaler bits of `SR` stay; `DR` changes only for an event that delivers a byte, which a
data event does (R35, R222); of the other events the move says it (log entry 24). A `BusEvent` that is not enabled, and a
data status without a byte, is no step. -/
def busEvent (v : Byte) (d : Option Byte) (s : State) : State :=
  if busEnabled s && isBusEvent s.cfg v d then
    { s with
      sr := (v &&& ~~~s.cfg.prescalerMask) ||| (s.sr &&& s.cfg.prescalerMask)
      dr := d.getD s.dr
      cr := { s.cr with int := true }
      edge := match s.cfg.irqKind with
        | .level => s.edge
        | .pulse => true }.record (.busEvent v d)
  else s

/-- R34, U4: the prescaler bits of `SR` belong to the clock configuration and may hold any value. -/
def setPrescaler (v : Byte) (s : State) : State :=
  { s with sr := (s.sr &&& ~~~s.cfg.prescalerMask) ||| (v &&& s.cfg.prescalerMask) }

/-- One move of an agent beside the polling context. -/
def envStep (e : EnvMove) (s : State) : State :=
  match e with
  | .signal => signalStep s
  | .bus v d => busEvent v d s
  | .prescaler v => setPrescaler v s

/-- Moves of those agents, in order. -/
def envSteps : List EnvMove → State → State
  | [], s => s
  | e :: rest, s => envSteps rest (envStep e s)

/-- R134: what the other agents do between two accesses of one step of the polling context. -/
def gap (s : State) : State :=
  match s.gaps with
  | [] => s
  | g :: rest => envSteps g { s with gaps := rest }

/-! ### Calls, terminal outcomes and the return -/

/-- R130, R131: the start of a call. It issues no register access and does not touch the flag. -/
def startCall (m : Mode) (buffer : List Byte) (s : State) : Result :=
  if s.phase = .idle then
    if buffer.length ≤ s.cfg.maxLen then
      .next { s with
        mode := some m
        buf := .ofBytes buffer
        len := some buffer.length
        cursor := some 0
        outcome := none
        phase := .wait }
    else .refused .bufferTooLong
  else .refused .operationDuringCall

/-- R203 (1), (2), R139: a terminal row ends with the disarm and sets `outcome`. This is the block's one way of
taking an exception: nothing is saved, and there is no handler inside the block. -/
def raise (o : CallOutcome) (s : State) : State := { commandDisarm s with outcome := some o }

/-- R136, R203 (4): the return. The outcome and the buffer go to the caller, the working registers lose their values,
`phase` goes to IDLE. `outcome` stays readable until the next call starts (R23; log entry 6). -/
def returnToCaller (s : State) : Result :=
  readOutcome s fun o =>
    readLen s fun l =>
      .next { s with
        delivered := { outcome := o, buf := s.buf, len := l } :: s.delivered
        mode := none
        cursor := none
        len := none
        snapshot := none
        event := none
        phase := .idle }

/-- The caller's operations need a free polling context (R110). -/
def whenIdle (s : State) (k : Result) : Result :=
  if s.phase = .idle then k else .refused .operationDuringCall

/-- The next state of an outcome changed by `f`; a fault or a refusal stays. -/
def andThen (r : Result) (f : State → Result) : Result :=
  match r with
  | .next t => f t
  | .fault e => .fault e
  | .refused e => .refused e

/-! ### The actions that several rows share -/

/-- R152, R154, R174: NACK-next, disarm, raise. -/
def nackThenRaise (o : CallOutcome) (s : State) : State := raise o (gap (commandNack s))

/-- R160, R176: the default row; the payload is the snapshot (C2). -/
def unknownState (s : State) : Result :=
  readSnapshot s fun v => .next (raise (.err (.unknownState v)) s)

/-- R155, R157: the data row of RECEIVE. A full buffer ends the call without reading `DR`; otherwise the byte in `DR` is
stored at the cursor, the cursor moves on, and the controller is re-armed. -/
def storeByte (s : State) : Result :=
  readCursor s fun c =>
    readLen s fun l =>
      if c = l then .next (raise (.err .bufferOverflow) s)
      else
        ioReadDr s fun v s =>
          memWrite c v (gap s) fun s =>
            .next (commandArm (gap { s with cursor := some (c + 1) }))

/-- R170, R171, the path with `cursor < L`: the buffer's next byte is loaded into `DR`, the cursor moves on, and the
controller is re-armed. -/
def loadByte (c : Nat) (s : State) : Result :=
  memRead c s fun v s =>
    .next (commandArm (gap { ioWriteDr v (gap s) with cursor := some (c + 1) }))

/-- R170, R171, the exhausted buffer: the pad byte is loaded and the next byte is not acknowledged. -/
def padByteNack (s : State) : State := commandNack (gap (ioWriteDr padByte s))

/-- R172, R173: disarm and succeed with the count. -/
def succeedWithCount (s : State) : Result :=
  readCursor s fun c => .next (raise (.okRespond c) s)

end Sys2Proof.Machine
end

