-- ==== Sys2Proof/Machine/BusController.lean ====
section
/-! DEFINITION. The command words, the address word and the Bus Controller primitives (40_bus_controller.md). -/

namespace Sys2Proof.Machine

/-- R104: `IoWrite(CR, CW_ARM)`. -/
def execCwArm (s : State) : Result := .next (commandArm s)

/-- R105: `IoWrite(CR, CW_NACK)`. -/
def execCwNack (s : State) : Result := .next (commandNack s)

/-- R106: `IoWrite(CR, CW_DISARMED)`. -/
def execCwDisarmed (s : State) : Result := .next (commandDisarm s)

/-- R58, R77: `IoWrite(AR, address word)`. -/
def execArWord (a : Addr7) (g : Bool) (s : State) : Result := .next (ioWriteAr (addressWord s.cfg a g) s)

/-- R100: `configure(gce)`: `AR` first, then `CR`. -/
def execConfigure (g : Bool) (s : State) : Result :=
  whenIdle s (.next (commandDisarm (gap (ioWriteAr (addressWord s.cfg s.addr7 g) s))))

/-- R102: `arm()`. -/
def execArm (s : State) : Result := whenIdle s (.next (commandArm s))

/-- R106: `disarmAndReset()`, issued by the engine inside its terminal rows (`raise`). -/
def execDisarmAndReset (s : State) : Result := .next (commandDisarm s)

end Sys2Proof.Machine
end

