-- ==== Sys2Proof/Machine/Calls.lean ====
section
/-! DEFINITION. The two operations that start a call (42_transaction_engine.md R130, R131). -/

namespace Sys2Proof.Machine

/-- R130: `receive(buffer)`. -/
def execReceive (buffer : List Byte) (s : State) : Result := startCall .receive buffer s

/-- R131: `respond(buffer)`. -/
def execRespond (buffer : List Byte) (s : State) : Result := startCall .respond buffer s

end Sys2Proof.Machine
end

