-- ==== Sys2Proof/Machine/InterruptBridge.lean ====
section
/-! DEFINITION. The Interrupt Bridge (41_interrupt_bridge.md): `signal()` and the two halves of `take()` (R122, C1). -/

namespace Sys2Proof.Machine

/-- R121: `signal()`. -/
def execSignal (s : State) : Result := .next (signalStep s)

/-- R123: `observe`. The value read is the flag's, which the WAIT step uses (R132). -/
def execTakeObserve (s : State) : Result := flagRead s fun _ t => .next t

/-- R124: `clear`, unconditional. -/
def execTakeClear (s : State) : Result := .next (flagClear s)

end Sys2Proof.Machine
end

