-- ==== Sys2Proof/Machine/Receive.lean ====
section
/-! DEFINITION. The rows of RECEIVE (43_receive.md R151 to R160), each performed by the ACT step (R134). -/

namespace Sys2Proof.Machine

/-- R151: re-arm, await data. -/
def execRxSrSlaAck (s : State) : Result := .next (commandArm s)

/-- R152. -/
def execRxSrArbSlaAck (s : State) : Result := .next (nackThenRaise (.err .arbitrationLost) s)

/-- R153: re-arm, await data. -/
def execRxSrGcallAck (s : State) : Result := .next (commandArm s)

/-- R154. -/
def execRxSrArbGcallAck (s : State) : Result := .next (nackThenRaise (.err .arbitrationLost) s)

/-- R155. -/
def execRxSrDataAck (s : State) : Result := storeByte s

/-- R156: no read of `DR`, no store, no cursor change (D22). -/
def execRxSrDataFinal (s : State) : Result := .next (raise .okReceive s)

/-- R157: the whole action of R155. -/
def execRxSrGcallDataAck (s : State) : Result := storeByte s

/-- R158. -/
def execRxSrStop (s : State) : Result := .next (raise .okReceive s)

/-- R159: dummy byte, NACK, disarm. -/
def execRxStSlaAck (s : State) : Result :=
  .next (nackThenRaise (.err .notExpectedTransactionDirection) (gap (ioWriteDr s.cfg.dummyByte s)))

/-- R160. -/
def execRxStArbSlaAck (s : State) : Result := unknownState s

/-- R160. -/
def execRxStDataAck (s : State) : Result := unknownState s

/-- R160. -/
def execRxStDataNack (s : State) : Result := unknownState s

/-- R160. -/
def execRxStLastData (s : State) : Result := unknownState s

/-- R160: the payload is the `snapshot` register, which the dispatched row's own byte equals (log entry 13). -/
def execRxUnrecognized (_code : Byte) (s : State) : Result := unknownState s

end Sys2Proof.Machine
end

