-- ==== Sys2Proof/Machine/Respond.lean ====
section
/-! DEFINITION. The rows of RESPOND (44_respond.md R170 to R176), each performed by the ACT step (R134). -/

namespace Sys2Proof.Machine

/-- R175: disarm alone, unlike the mirror row of RECEIVE. -/
def execTxSrSlaAck (s : State) : Result := .next (raise (.err .notExpectedTransactionDirection) s)

/-- R176. -/
def execTxSrArbSlaAck (s : State) : Result := unknownState s

/-- R176. -/
def execTxSrGcallAck (s : State) : Result := unknownState s

/-- R176. -/
def execTxSrArbGcallAck (s : State) : Result := unknownState s

/-- R176. -/
def execTxSrDataAck (s : State) : Result := unknownState s

/-- R176. -/
def execTxSrDataFinal (s : State) : Result := unknownState s

/-- R176. -/
def execTxSrGcallDataAck (s : State) : Result := unknownState s

/-- R176: a stop is no success in RESPOND. -/
def execTxSrStop (s : State) : Result := unknownState s

/-- R170: with the buffer used up the row pads and goes on (C6, D13). -/
def execTxStSlaAck (s : State) : Result :=
  readCursor s fun c =>
    readLen s fun l =>
      if c = l then .next (padByteNack s) else loadByte c s

/-- R174: `DR` is not loaded. -/
def execTxStArbSlaAck (s : State) : Result := .next (nackThenRaise (.err .arbitrationLost) s)

/-- R171: with the buffer used up the row pads, disarms (C3, R139) and succeeds; the pad is not counted. -/
def execTxStDataAck (s : State) : Result :=
  readCursor s fun c =>
    readLen s fun l =>
      if c = l then .next (raise (.okRespond c) (gap (padByteNack s))) else loadByte c s

/-- R172. -/
def execTxStDataNack (s : State) : Result := succeedWithCount s

/-- R173: the row does not check how it was reached. -/
def execTxStLastData (s : State) : Result := succeedWithCount s

/-- R176: the payload is the `snapshot` register, which the dispatched row's own byte equals (log entry 13). -/
def execTxUnrecognized (_code : Byte) (s : State) : Result := unknownState s

end Sys2Proof.Machine
end

