-- ==== Sys2Proof/Machine/Dispatch.lean ====
section
/-! DEFINITION. The meaning of each instruction, one arm per constructor of `Instr`. -/

namespace Sys2Proof.Machine

def exec (i : Instr) (s : State) : Host.Outcome State Fault Refusal :=
  match i with
  | .rxSrSlaAck => Sys2Proof.Machine.execRxSrSlaAck s
  | .rxSrArbSlaAck => Sys2Proof.Machine.execRxSrArbSlaAck s
  | .rxSrGcallAck => Sys2Proof.Machine.execRxSrGcallAck s
  | .rxSrArbGcallAck => Sys2Proof.Machine.execRxSrArbGcallAck s
  | .rxSrDataAck => Sys2Proof.Machine.execRxSrDataAck s
  | .rxSrDataFinal => Sys2Proof.Machine.execRxSrDataFinal s
  | .rxSrGcallDataAck => Sys2Proof.Machine.execRxSrGcallDataAck s
  | .rxSrStop => Sys2Proof.Machine.execRxSrStop s
  | .rxStSlaAck => Sys2Proof.Machine.execRxStSlaAck s
  | .rxStArbSlaAck => Sys2Proof.Machine.execRxStArbSlaAck s
  | .rxStDataAck => Sys2Proof.Machine.execRxStDataAck s
  | .rxStDataNack => Sys2Proof.Machine.execRxStDataNack s
  | .rxStLastData => Sys2Proof.Machine.execRxStLastData s
  | .rxUnrecognized code => Sys2Proof.Machine.execRxUnrecognized code s
  | .txSrSlaAck => Sys2Proof.Machine.execTxSrSlaAck s
  | .txSrArbSlaAck => Sys2Proof.Machine.execTxSrArbSlaAck s
  | .txSrGcallAck => Sys2Proof.Machine.execTxSrGcallAck s
  | .txSrArbGcallAck => Sys2Proof.Machine.execTxSrArbGcallAck s
  | .txSrDataAck => Sys2Proof.Machine.execTxSrDataAck s
  | .txSrDataFinal => Sys2Proof.Machine.execTxSrDataFinal s
  | .txSrGcallDataAck => Sys2Proof.Machine.execTxSrGcallDataAck s
  | .txSrStop => Sys2Proof.Machine.execTxSrStop s
  | .txStSlaAck => Sys2Proof.Machine.execTxStSlaAck s
  | .txStArbSlaAck => Sys2Proof.Machine.execTxStArbSlaAck s
  | .txStDataAck => Sys2Proof.Machine.execTxStDataAck s
  | .txStDataNack => Sys2Proof.Machine.execTxStDataNack s
  | .txStLastData => Sys2Proof.Machine.execTxStLastData s
  | .txUnrecognized code => Sys2Proof.Machine.execTxUnrecognized code s
  | .cwArm => Sys2Proof.Machine.execCwArm s
  | .cwNack => Sys2Proof.Machine.execCwNack s
  | .cwDisarmed => Sys2Proof.Machine.execCwDisarmed s
  | .arWord addr gce => Sys2Proof.Machine.execArWord addr gce s
  | .configure gce => Sys2Proof.Machine.execConfigure gce s
  | .arm => Sys2Proof.Machine.execArm s
  | .disarmAndReset => Sys2Proof.Machine.execDisarmAndReset s
  | .signal => Sys2Proof.Machine.execSignal s
  | .takeObserve => Sys2Proof.Machine.execTakeObserve s
  | .takeClear => Sys2Proof.Machine.execTakeClear s
  | .receive buffer => Sys2Proof.Machine.execReceive buffer s
  | .respond buffer => Sys2Proof.Machine.execRespond buffer s

end Sys2Proof.Machine
end

