-- ==== Sys2Proof/Machine/Phases.lean ====
section
/-! DEFINITION. The engine's steps, one for each value of `phase` (42_transaction_engine.md R132 to R136, R140), the
caller's moves (R79, R110), and the schedule when the agenda has no move left. -/

namespace Sys2Proof.Machine

/-- R132: the spin. The observed value is the flag's (R123). -/
def waitStep (s : State) : Result :=
  andThen (exec .takeObserve s) fun t => .next { t with phase := if s.flag then .snapshot else .wait }

/-- R133: `SR` is read once, masked, and decoded into one event. -/
def snapshotStep (s : State) : Result :=
  ioReadSr s fun raw t =>
    .next { t with
      snapshot := some (snapshotOf s.cfg raw)
      event := some (decodeEvent s.cfg (snapshotOf s.cfg raw))
      phase := .act }

/-- R134: the row of (`mode`, `event`) is looked up (R75) and run. -/
def actStep (s : State) : Result :=
  readMode s fun m =>
    readEvent s fun e =>
      andThen (exec (rowInstr m e) s) fun t => .next { t with phase := .clear }

/-- R135: the flag is cleared after every access of the row, on terminal events too. -/
def clearStep (s : State) : Result :=
  andThen (exec .takeClear s) fun t => .next { t with phase := if s.outcome = none then .wait else .done }

/-- One step of the engine. In IDLE no call is in progress and the engine has nothing to do (log entry 20). -/
def engineStep (s : State) : Result :=
  match s.phase with
  | .idle => .next s
  | .wait => waitStep s
  | .snapshot => snapshotStep s
  | .act => actStep s
  | .clear => clearStep s
  | .done => returnToCaller s

/-- Who issues an instruction: the caller its four operations (R79, R110); everything else, the words to `CR` and `AR`
included (R29, R206), is the engine's or the interrupt context's, and is refused from the caller (U14). -/
def callerStep (op : Instr) (s : State) : Result :=
  match op with
  | .configure _ | .arm | .receive _ | .respond _ => exec op s
  | .rxSrSlaAck | .rxSrArbSlaAck | .rxSrGcallAck | .rxSrArbGcallAck | .rxSrDataAck | .rxSrDataFinal
  | .rxSrGcallDataAck | .rxSrStop | .rxStSlaAck | .rxStArbSlaAck | .rxStDataAck | .rxStDataNack | .rxStLastData
  | .rxUnrecognized _
  | .txSrSlaAck | .txSrArbSlaAck | .txSrGcallAck | .txSrArbGcallAck | .txSrDataAck | .txSrDataFinal
  | .txSrGcallDataAck | .txSrStop | .txStSlaAck | .txStArbSlaAck | .txStDataAck | .txStDataNack | .txStLastData
  | .txUnrecognized _
  | .cwArm | .cwNack | .cwDisarmed | .arWord _ _ | .disarmAndReset | .signal | .takeObserve | .takeClear => .refused .notACallerOperation

/-- A move of one agent besides the polling context. The interrupt context's whole handler is `signal()` (R199). -/
def envMoveStep (e : EnvMove) (s : State) : Result :=
  match e with
  | .signal => exec .signal s
  | .bus v d => .next (busEvent v d s)
  | .prescaler v => .next (setPrescaler v s)

/-- One scheduled move. -/
def moveStep (m : Move) (s : State) : Result :=
  match m with
  | .engine gaps => engineStep { s with gaps := gaps }
  | .caller op gaps => callerStep op { s with gaps := gaps }
  | .env e => envMoveStep e s

/-- The schedule once the agenda is used up: a pending request that the flag does not show yet is served first, since
the interrupt context is preemptive and weakly fair (R127, R201), and otherwise the engine steps (log entry 4). -/
def freeStep (s : State) : Result :=
  if irq s && !s.flag then exec .signal s else engineStep { s with gaps := [] }

/-! ### Placing a word for the host's question -/

/-- The engine about to run the row of `(m, e)`, `e` the event of the byte `w` under the default parameters; `cursor` and
`L` keep their values and are otherwise 0. -/
def aboutToAct (m : Mode) (w : Byte) (s : State) : State :=
  { s with
    cfg := .default
    sr := w
    mode := some m
    cursor := some (s.cursor.getD 0)
    len := some (s.len.getD 0)
    snapshot := some (snapshotOf .default w)
    event := some (decodeEvent .default (snapshotOf .default w))
    phase := .act
    agenda := .engine [] :: s.agenda }

/-- The host's word as the next thing the machine runs (log entry 11). A status byte is acted on in RECEIVE. A command
word stands in no row by itself and no agent issues it by itself (R110, R111), so the next step is the one of the spec's
steps that issues it and the least besides: `arm()` is the write of `CW_ARM` (R83); the padding row of RESPOND at the end
of the buffer issues `CW_NACK` after the pad byte (R170); the row of `SR_STOP` issues `CW_DISARMED` and raises `Ok`
(R158). -/
def placeWord (w : Byte) (s : State) : State :=
  match tableInstr .default w with
  | .cwArm => { s with cfg := .default, phase := .idle, agenda := .caller .arm [] :: s.agenda }
  | .cwNack => aboutToAct .respond Params.default.codes.stSlaAck { s with cursor := none, len := none }
  | .cwDisarmed => aboutToAct .receive Params.default.codes.srStop s
  | _ => aboutToAct .receive w s

end Sys2Proof.Machine
end

