-- ==== Sys2Proof/Machine/Step.lean ====
section
/-! DEFINITION. One step of the machine: the next move of the schedule is made. -/

namespace Sys2Proof.Machine

/-- A configuration that breaks R10 is refused; otherwise the first move of the agenda is made, or, with none left, the
free schedule's. -/
def step (s : State) : Host.Outcome State Fault Refusal :=
  if s.cfg.wf then
    match s.agenda with
    | [] => freeStep s
    | m :: rest => moveStep m { s with agenda := rest }
  else .refused .badConfiguration

/-- The state whose very next step runs the instruction of the word `w` (`decodeTableWord`); a word that is no
instruction places nothing. -/
def State.withFetchWord (s : State) (nbits w : Nat) : State :=
  match decodeTableWord nbits w with
  | none => s
  | some _ => placeWord (BitVec.ofNat 8 w) s

end Sys2Proof.Machine
end

