-- ==== Sys2Proof/Machine/Script.lean ====
section
/-! DEFINITION. The event-script notation of 30_encoding.md R82 as data, and the schedule of its canonical run: each
event comes while the engine waits, one `signal()` follows it, and the engine then finishes CLEAR. It is a way to write
inputs down (R82); the machine does not read it. -/

namespace Sys2Proof.Machine

/-- `status ::= byte | mnemonic`. -/
inductive ScriptStatus where
  | byte (v : Byte)
  | mnemonic (e : Event)
  deriving DecidableEq, Repr

/-- `EV s DR=d PS=p`; the prescaler bits default to 0. -/
structure ScriptEvent where
  status : ScriptStatus
  dr     : Option Byte := none
  ps     : Byte := 0#8
  deriving DecidableEq, Repr

/-- One operation of a script, a call with its events and the outcome it expects. -/
inductive ScriptOp where
  | configure (gce : Bool)
  | arm
  | receive (len : Nat) (events : List ScriptEvent) (expected : CallOutcome)
  | respond (buf : List Byte) (events : List ScriptEvent) (expected : CallOutcome)
  deriving DecidableEq, Repr

/-- The status byte. A mnemonic stands for the code of its event: R82's default code at the default parameters, and under
others the parameter of the same event (95_test_vectors.md, the translation note). Only the code of `SR_DATA_FINAL` may be
absent (R74); then there is no parameter to translate to, and the mnemonic keeps the default code that R82 names, 0x88,
which the machine reads as it reads any byte (DESIGN CHOICE, log entry 19). -/
def ScriptStatus.code (p : Params) : ScriptStatus → Byte
  | .byte v => v
  | .mnemonic e => (e.code p).getD 0x88#8

/-- The engine's four steps for one event: WAIT, SNAPSHOT, ACT, CLEAR, with nothing in between. -/
def serviceMoves : List Move := [.engine [], .engine [], .engine [], .engine []]

/-- One event and its handling. -/
def ScriptEvent.moves (p : Params) (e : ScriptEvent) : List Move :=
  [.env (.prescaler e.ps), .env (.bus (e.status.code p) e.dr), .env .signal] ++ serviceMoves

/-- The moves of an operation; a call ends with the DONE step. `fill` is what the caller's buffer of a `RECEIVE` holds at
the start, which the notation does not say. -/
def ScriptOp.moves (p : Params) (fill : Byte) : ScriptOp → List Move
  | .configure g => [.caller (.configure g) []]
  | .arm => [.caller .arm []]
  | .receive n evs _ =>
    .caller (.receive (List.replicate n fill)) [] :: (evs.flatMap (ScriptEvent.moves p) ++ [.engine []])
  | .respond buf evs _ => .caller (.respond buf) [] :: (evs.flatMap (ScriptEvent.moves p) ++ [.engine []])

/-- The schedule of a script. -/
def scriptMoves (p : Params) (fill : Byte) (script : List ScriptOp) : List Move :=
  script.flatMap (ScriptOp.moves p fill)

/-- The outcomes a script expects, in order. -/
def scriptExpected (script : List ScriptOp) : List CallOutcome :=
  script.filterMap fun
    | .configure _ => none
    | .arm => none
    | .receive _ _ o => some o
    | .respond _ _ o => some o

/-- A script holds from a state when its canonical run ends with exactly the expected outcomes delivered. -/
def scriptHolds (fill : Byte) (script : List ScriptOp) (s : State) : Bool :=
  match core.run (scriptMoves s.cfg fill script).length
      ({ s with agenda := scriptMoves s.cfg fill script } : State) with
  | .next (t : State) => (t.delivered.map (·.outcome)).reverse == scriptExpected script
  | .fault _ => false
  | .refused _ => false

end Sys2Proof.Machine
end

