-- ==== Sys2Proof/Safety.lean ====
section
/-! DEFINITION. The vocabulary of the claims: control states, the block's own accesses, the frame of a row, the legal
phase successors, the invariant. -/

namespace Sys2Proof.Machine

/-! ### Control states (R33, V3) -/

/-- `CR` after `CW_ARM`. -/
def rearmed : Control := { int := false, ackEn := true, start := false, stop := false, en := true, intEn := true }

/-- `CR` after `CW_NACK`. -/
def nacked : Control := { int := false, ackEn := false, start := false, stop := false, en := true, intEn := true }

/-- `CR` after `CW_DISARMED`, which leaves the pending flag as it was. -/
def disarmed (int : Bool) : Control :=
  { int := int, ackEn := false, start := false, stop := false, en := false, intEn := false }

/-! ### Accesses -/

/-- The access is the polling context's, not another agent's step. -/
def Access.isOwn : Access → Bool
  | .signal => false
  | .busEvent _ _ => false
  | .flagRead _ | .flagClear | .srRead _ | .drRead _ | .arWrite _ | .crWrite _ | .drWrite _ | .bufRead _ _
  | .bufWrite _ _ => true

/-- The trace of the polling context alone, the latest access first. -/
def ownTrace (s : State) : List Access := s.trace.filter Access.isOwn

def Access.isCrWrite : Access → Bool
  | .crWrite _ => true
  | _ => false

def Access.isDr : Access → Bool
  | .drRead _ => true
  | .drWrite _ => true
  | _ => false

def Access.isDrWrite : Access → Bool
  | .drWrite _ => true
  | _ => false

def Access.isBufRead : Access → Bool
  | .bufRead _ _ => true
  | _ => false

def Access.isBuf : Access → Bool
  | .bufRead _ _ => true
  | .bufWrite _ _ => true
  | _ => false

/-- R111: the register writes the block can issue: only the three command words to `CR`, only the instance's address
words to `AR`. -/
def Access.ofBlock (p : Params) (a : Addr7) : Access → Prop
  | .crWrite v => v = cwArmWord p ∨ v = cwNackWord p ∨ v = cwDisarmedWord p
  | .arWrite v => v = addressWord p a true ∨ v = addressWord p a false
  | _ => True

/-! ### Frames -/

/-- What no row of the transition tables and no move of another agent writes: the configuration, `addr7`, `mode`, `L`,
`snapshot`, `event`, `phase`, `AR`, what was delivered, the rest of the schedule. -/
structure RowFrame (s t : State) : Prop where
  cfg : t.cfg = s.cfg
  addr7 : t.addr7 = s.addr7
  mode : t.mode = s.mode
  len : t.len = s.len
  snapshot : t.snapshot = s.snapshot
  event : t.event = s.event
  phase : t.phase = s.phase
  ar : t.ar = s.ar
  delivered : t.delivered = s.delivered
  agenda : t.agenda = s.agenda

/-- What the other agents write, and a row only where its rule says so. -/
structure EnvFrame (s t : State) : Prop where
  sr : t.sr = s.sr
  dr : t.dr = s.dr
  flag : t.flag = s.flag
  edge : t.edge = s.edge

/-- Every byte of the buffer reads as before. -/
def SameBytes (s t : State) : Prop := ∀ a, t.buf.read a = s.buf.read a

/-! ### The outcome table (R196) -/

/-- The outcome that (mode, event) raises at `cursor = c`, `L = l`, `snapshot = v`; none for a continuing row. -/
def outcomeTable (m : Mode) (e : Event) (c l : Nat) (v : Byte) : Option CallOutcome :=
  match m, e with
  | .receive, .srSlaAck => none
  | .receive, .srArbSlaAck => some (.err .arbitrationLost)
  | .receive, .srGcallAck => none
  | .receive, .srArbGcallAck => some (.err .arbitrationLost)
  | .receive, .srDataAck => if c = l then some (.err .bufferOverflow) else none
  | .receive, .srDataFinal => some .okReceive
  | .receive, .srGcallDataAck => if c = l then some (.err .bufferOverflow) else none
  | .receive, .srStop => some .okReceive
  | .receive, .stSlaAck => some (.err .notExpectedTransactionDirection)
  | .receive, .stArbSlaAck => some (.err (.unknownState v))
  | .receive, .stDataAck => some (.err (.unknownState v))
  | .receive, .stDataNack => some (.err (.unknownState v))
  | .receive, .stLastData => some (.err (.unknownState v))
  | .receive, .unrecognized _ => some (.err (.unknownState v))
  | .respond, .srSlaAck => some (.err .notExpectedTransactionDirection)
  | .respond, .srArbSlaAck => some (.err (.unknownState v))
  | .respond, .srGcallAck => some (.err (.unknownState v))
  | .respond, .srArbGcallAck => some (.err (.unknownState v))
  | .respond, .srDataAck => some (.err (.unknownState v))
  | .respond, .srDataFinal => some (.err (.unknownState v))
  | .respond, .srGcallDataAck => some (.err (.unknownState v))
  | .respond, .srStop => some (.err (.unknownState v))
  | .respond, .stSlaAck => none
  | .respond, .stArbSlaAck => some (.err .arbitrationLost)
  | .respond, .stDataAck => if c = l then some (.okRespond l) else none
  | .respond, .stDataNack => some (.okRespond c)
  | .respond, .stLastData => some (.okRespond c)
  | .respond, .unrecognized _ => some (.err (.unknownState v))

/-- R140: the phase successors, staying put included (the other agents' moves, the spin of WAIT, the idle caller). -/
def phaseSuccessor : Phase → Phase → Bool
  | .idle, .idle => true
  | .idle, .wait => true
  | .wait, .wait => true
  | .wait, .snapshot => true
  | .snapshot, .snapshot => true
  | .snapshot, .act => true
  | .act, .act => true
  | .act, .clear => true
  | .clear, .clear => true
  | .clear, .wait => true
  | .clear, .done => true
  | .done, .done => true
  | .done, .idle => true
  | _, _ => false

/-- An outcome that a call of this mode and cursor can end with (R178, R190, R195). -/
def outcomeFits (m : Mode) (c : Nat) : CallOutcome → Bool
  | .okReceive => m == .receive
  | .okRespond n => m == .respond && n == c
  | .err .notImplemented => false
  | .err .bufferOverflow => m == .receive
  | .err .arbitrationLost => true
  | .err .notExpectedTransactionDirection => true
  | .err (.unknownState _) => true

/-- A record handed to the caller is legal: a canonical buffer, a count within it (R178), never `NotImplemented`
(R195). -/
def Delivery.legal (d : Delivery) : Prop :=
  d.buf.wf = true ∧ d.outcome ≠ .err .notImplemented ∧ ∀ n, d.outcome = .okRespond n → n ≤ d.len

/-! ### The invariant -/

/-- What every step keeps. -/
structure Inv (s : State) : Prop where
  /-- R10: the configuration is a legal one. -/
  cfgOk : s.cfg.wf = true
  /-- R20: `addr7` is the parameter `SLAVE_ADDR`. -/
  addr : s.addr7.toNat = s.cfg.slaveAddr
  /-- The buffer is in canonical form. -/
  bufWf : s.buf.wf = true
  /-- R31, R111: the start and stop bits are never set. -/
  noMaster : s.cr.start = false ∧ s.cr.stop = false
  /-- R33, R76: the controller is `Armed` or `Disarmed`. -/
  enables : s.cr.intEn = s.cr.en ∧ (s.cr.ackEn = true → s.cr.en = true)
  /-- R23: no value outside a call. -/
  outside : s.phase = .idle →
    s.mode = none ∧ s.cursor = none ∧ s.len = none ∧ s.snapshot = none ∧ s.event = none
  /-- R22, R142, R52: `0 ≤ cursor ≤ L ≤ 2^CURSOR_BITS − 1`, and the buffer has no byte at `L` or beyond. -/
  inside : s.phase ≠ .idle → ∃ m c l, s.mode = some m ∧ s.cursor = some c ∧ s.len = some l ∧
    c ≤ l ∧ l ≤ s.cfg.maxLen ∧ s.buf.below l = true
  /-- R71, R72: the event is the decoded snapshot, and no prescaler bit is in it. -/
  decoded : s.phase = .act ∨ s.phase = .clear → ∃ v, s.snapshot = some v ∧ snapshotOf s.cfg v = v ∧
    s.event = some (decodeEvent s.cfg v)
  /-- R20, R137: no outcome before the terminal event. -/
  undecided : s.phase = .wait ∨ s.phase = .snapshot ∨ s.phase = .act → s.outcome = none
  /-- R139, R178: a raised outcome leaves the controller disarmed and fits the call. -/
  decided : s.phase = .clear ∨ s.phase = .done → ∀ o, s.outcome = some o →
    isDisarmed s.cr = true ∧ ∀ m c, s.mode = some m → s.cursor = some c → outcomeFits m c o = true
  /-- R136: at the return the outcome is there and the flag is clear. -/
  returning : s.phase = .done → s.outcome ≠ none ∧ s.flag = false
  /-- R195. -/
  neverNotImplemented : s.outcome ≠ some (.err .notImplemented)
  /-- Only the pulse kind keeps a pulse (D9). -/
  levelKeepsNoPulse : s.cfg.irqKind = .level → s.edge = false
  /-- R178, R195. -/
  deliveries : ∀ d ∈ s.delivered, d.legal
  /-- R111. -/
  accesses : ∀ a ∈ s.trace, a.ofBlock s.cfg s.addr7

/-! ### Reads come after writes (R222) -/

def Access.isEvent : Access → Bool
  | .busEvent _ _ => true
  | _ => false

/-- A `BusEvent` of a data status, with the byte it delivered. -/
def Access.isDataEvent (p : Params) : Access → Bool
  | .busEvent v d => d.isSome && isDataStatus p v
  | _ => false

/-- What an access needs of the record before it: a read of `SR` comes after a `BusEvent`, a read of `DR` after a data
`BusEvent`. -/
def Access.follows (p : Params) (before : List Access) : Access → Bool
  | .srRead _ => before.any Access.isEvent
  | .drRead _ => before.any (Access.isDataEvent p)
  | _ => true

/-- Every access of a record, the latest first, has what it needs before it. -/
def readsFollowEvents (p : Params) : List Access → Bool
  | [] => true
  | a :: before => a.follows p before && readsFollowEvents p before

/-- R222: `SR` is read only after a `BusEvent` has written it, `DR` only after a data `BusEvent` has. The first field says
it; the others are what a step needs to keep it. -/
structure Sourced (s : State) : Prop where
  reads : readsFollowEvents s.cfg s.trace = true
  /-- Once there was an event, a data status in `SR` came from a data event. -/
  status : s.trace.any Access.isEvent = true → isDataStatus s.cfg s.sr = true →
    s.trace.any (Access.isDataEvent s.cfg) = true
  /-- What is pending, and what the engine is about to read, came from an event. -/
  pending : s.flag = true ∨ s.cr.int = true ∨ s.edge = true ∨ s.phase = .snapshot →
    s.trace.any Access.isEvent = true
  /-- A data row is about to run only after a data event. -/
  acting : s.phase = .act → s.event = some .srDataAck ∨ s.event = some .srGcallDataAck →
    s.trace.any (Access.isDataEvent s.cfg) = true

/-! ### Whole calls (R162, R178) -/

/-- An event of a canonical run: the status byte, and the data byte of an event that delivers one. -/
abbrev BusItem := Byte × Option Byte

/-- The moves of the canonical run for one event: `EV`, `S`, then WAIT, SNAPSHOT, ACT, CLEAR. -/
def itemMoves (x : BusItem) : List Move := [.env (.bus x.1 x.2), .env .signal] ++ serviceMoves

/-- The data byte of an item whose event is one of the two data events of RECEIVE (R155, R157). -/
def acceptedByte (p : Params) (x : BusItem) : Option Byte :=
  match decodeEvent p (snapshotOf p x.1) with
  | .srDataAck => x.2
  | .srGcallDataAck => x.2
  | _ => none

/-- An item that a receive call goes on after, while the buffer has room: an address event, or a data event that
delivers a byte. -/
def receiveContinues (p : Params) (x : BusItem) : Bool :=
  match decodeEvent p (snapshotOf p x.1) with
  | .srSlaAck => true
  | .srGcallAck => true
  | .srDataAck => x.2.isSome
  | .srGcallDataAck => x.2.isSome
  | _ => false

/-- An item that ends a receive call with `Ok` (R156, R158). -/
def receiveEnds (p : Params) (x : BusItem) : Bool :=
  match decodeEvent p (snapshotOf p x.1) with
  | .srStop => true
  | .srDataFinal => true
  | _ => false

/-- An item that loads a buffer byte while there is one (R170, R171). -/
def respondLoads (p : Params) (x : BusItem) : Bool :=
  match decodeEvent p (snapshotOf p x.1) with
  | .stSlaAck => true
  | .stDataAck => true
  | _ => false

/-- An item that ends a respond call with the count (R172, R173). -/
def respondEnds (p : Params) (x : BusItem) : Bool :=
  match decodeEvent p (snapshotOf p x.1) with
  | .stDataNack => true
  | .stLastData => true
  | _ => false

/-- The bytes loaded into `DR`, the latest first. -/
def loadedBytes (s : State) : List Byte :=
  s.trace.filterMap fun
    | .drWrite v => some v
    | _ => none

/-- A call that waits for its next event on an armed controller with nothing pending, `c` bytes into a buffer of `l`. -/
structure Waiting (m : Mode) (c l : Nat) (s : State) : Prop where
  cfgOk : s.cfg.wf = true
  level : s.cfg.irqKind = .level
  unmasked : s.cfg.globalIe = true
  phase : s.phase = .wait
  mode : s.mode = some m
  cursor : s.cursor = some c
  len : s.len = some l
  outcome : s.outcome = none
  bufWf : s.buf.wf = true
  flag : s.flag = false
  armed : s.cr.en = true ∧ s.cr.intEn = true ∧ s.cr.int = false

end Sys2Proof.Machine
end

