-- ==== Sys2Proof/Certificates/Slice0/Obligations.lean ====
section
/-! DEFINITION. The statements for the provers. Each docstring names the rules of spec/ it formalises; where a clause
rests on a choice of the model, the docstring names the log entry. -/

open Sys2Proof Sys2Proof.Machine

/-! ### Encodings -/

/-- R72, R73, R76, R77 at the default parameters: words written out from the tables decode to their instructions. -/
def Obligations.DefaultWordsDecodeToTheirInstructions : Prop :=
  decode .default (.status .receive) [0x60#8] = .ok (.rxSrSlaAck, []) ∧
  decode .default (.status .receive) [0x80#8] = .ok (.rxSrDataAck, []) ∧
  decode .default (.status .receive) [0xA2#8] = .ok (.rxSrStop, []) ∧
  decode .default (.status .respond) [0xA8#8] = .ok (.txStSlaAck, []) ∧
  decode .default (.status .respond) [0xC0#8] = .ok (.txStDataNack, []) ∧
  decode .default (.status .receive) [0x98#8] = .ok (.rxUnrecognized 0x98#8, []) ∧
  decode .default (.status .respond) [0x64#8] = .ok (.txUnrecognized 0x64#8, []) ∧
  decode .default .control [0xC5#8] = .ok (.cwArm, []) ∧
  decode .default .control [0x85#8] = .ok (.cwNack, []) ∧
  decode .default .control [0x00#8] = .ok (.cwDisarmed, []) ∧
  decode .default .address [0x4D#8] = .ok (.arWord 0x26#7 true, [])

/-- R72, R74, R76, R77: for every legal configuration and every well-formed instruction that has a word, decoding the
encoded word gives the instruction back, whatever bytes follow. -/
def Obligations.EncodedWordDecodesBack : Prop :=
  ∀ (p : Params) (i : Instr) (f : Format) (w rest : List Byte), p.wf = true → i.wf p = true →
    encode p i = some (f, w) → decode p f (w ++ rest) = .ok (i, rest)

/-- R71, R72, R75: every status byte decodes, under either mode, to a well-formed row whose word is the snapshot of that
byte. -/
def Obligations.StatusByteDecodesToTheRowOfItsSnapshot : Prop :=
  ∀ (p : Params) (m : Mode) (raw : Byte) (rest : List Byte), p.wf = true →
    ∃ i, decode p (.status m) (raw :: rest) = .ok (i, rest) ∧ i.wf p = true ∧
      encode p i = some (.status m, [snapshotOf p raw])

/-- R73: the bytes that are none of the codes present, and only they, decode to `Unrecognized`, and it carries the byte
unchanged. With the default codes (log entry 14) that is 243 of the 256 values, among them the ones the rule lists. -/
def Obligations.UnrecognizedIsEveryByteWithoutACode : Prop :=
  (∀ (p : Params) (s c : Byte), decodeEvent p s = .unrecognized c ↔ c = s ∧ s ∉ p.codes.toList) ∧
  ((List.range 256).filter fun n =>
    decodeEvent .default (BitVec.ofNat 8 n) == .unrecognized (BitVec.ofNat 8 n)).length = 243 ∧
  (∀ c ∈ [0x00#8, 0xF8#8, 0x98#8, 0x08#8, 0x10#8, 0x18#8, 0x20#8, 0x28#8, 0x30#8, 0x38#8, 0x40#8, 0x48#8, 0x50#8,
    0x58#8], decodeEvent .default c = .unrecognized c) ∧
  ∀ c : Byte, c.getLsbD 2 = true → decodeEvent .default c = .unrecognized c

/-- R71: the prescaler bits of the raw byte play no part: a named code with any prescaler bits selects its own row. -/
def Obligations.PrescalerBitsDoNotChangeTheRow : Prop :=
  ∀ (p : Params) (m : Mode) (e : Event) (c ps : Byte), p.wf = true → e.code p = some c →
    c &&& p.prescalerMask = 0#8 → (∀ u, e = .unrecognized u → u ∉ p.codes.toList) →
    decodeStatus p m (c ||| (ps &&& p.prescalerMask)) = rowInstr m e

/-- R103, R76: `CW_ARM` has exactly the four bits acknowledge-enable, enable, interrupt-pending and interrupt-enable set,
`CW_NACK` the same without acknowledge-enable, `CW_DISARMED` none. The last two words are the spec's decisions D4 and
D5. -/
def Obligations.CommandWordsSetExactlyTheirBits : Prop :=
  ∀ (p : Params) (n : Nat), p.wf = true →
    ((cwArmWord p).getLsbD n = true ↔
      n = p.control.int ∨ n = p.control.ackEn ∨ n = p.control.en ∨ n = p.control.intEn) ∧
    ((cwNackWord p).getLsbD n = true ↔ n = p.control.int ∨ n = p.control.en ∨ n = p.control.intEn) ∧
    (cwDisarmedWord p).getLsbD n = false

/-- R30, R77: the address word holds the address and the general-call bit, each readable from its own field, and with the
default layout it is `(addr7 << 1) OR gce`. -/
def Obligations.AddressWordHoldsAddressAndGeneralCall : Prop :=
  (∀ (p : Params) (a : Addr7) (g : Bool), p.wf = true →
    addressField p (addressWord p a g) = a ∧ gceField p (addressWord p a g) = g) ∧
  ∀ (a : Addr7) (g : Bool),
    (addressWord .default a g).toNat = 2 * a.toNat + (if g then 1 else 0)

/-- R78: tag and payload determine the outcome of a call of a given mode. -/
def Obligations.OutcomePortReadsBack : Prop :=
  ∀ (m : Mode) (o : CallOutcome), (o = .okReceive → m = .receive) → (∀ n, o = .okRespond n → m = .respond) →
    outcomeOfPort m o.tag o.payload = some o

/-! ### Reset and the Bus Controller -/

/-- R221: what reset leaves, for any parameters and any bytes in the three unspecified registers (R222), and that the
machine's reset is one of these states. The default `SLAVE_ADDR` is log entry 18; the three bytes are log entry 2. -/
def Obligations.ResetLeavesTheStatedValues : Prop :=
  (∃ ar sr dr, State.reset = State.boot .default ar sr dr) ∧
  ∀ (p : Params) (ar sr dr : Byte),
    (State.boot p ar sr dr).phase = .idle ∧ (State.boot p ar sr dr).flag = false ∧
    (State.boot p ar sr dr).mode = none ∧ (State.boot p ar sr dr).cursor = none ∧
    (State.boot p ar sr dr).len = none ∧ (State.boot p ar sr dr).snapshot = none ∧
    (State.boot p ar sr dr).event = none ∧ (State.boot p ar sr dr).outcome = none ∧
    (State.boot p ar sr dr).addr7 = BitVec.ofNat 7 p.slaveAddr ∧
    (State.boot p ar sr dr).cr = disarmed false ∧ isDisarmed (State.boot p ar sr dr).cr = true

/-- R55: a control write sets the five enables from the word, clears `INT` exactly when the word's `INT` is 1, writes the
two unnamed bits as 0, and changes nothing else but the record of accesses. -/
def Obligations.ControlWriteCopiesEnablesAndClearsPendingOnOne : Prop :=
  ∀ (s : State) (v : Byte),
    ioWriteCr v s = { s with
      cr := {
        int := if v.getLsbD s.cfg.control.int then false else s.cr.int
        ackEn := v.getLsbD s.cfg.control.ackEn
        start := v.getLsbD s.cfg.control.start
        stop := v.getLsbD s.cfg.control.stop
        en := v.getLsbD s.cfg.control.en
        intEn := v.getLsbD s.cfg.control.intEn
        unnamedHigh := false
        unnamedLow := false }
      trace := .crWrite v :: s.trace }

/-- R100: in IDLE `configure(gce)` writes the address word to `AR` and then `CW_DISARMED` to `CR`; the flag, `SR`, `DR`,
the working registers and the buffer stay; it leaves the controller `Disarmed` also when another agent moves between the
two writes (R54). -/
def Obligations.ConfigureWritesTheAddressAndDisarms : Prop :=
  ∀ (s : State) (g : Bool), s.cfg.wf = true → s.phase = .idle →
    (s.gaps = [] →
      exec (.configure g) s = .next { s with
        ar := addressWord s.cfg s.addr7 g
        cr := disarmed s.cr.int
        trace := .crWrite (cwDisarmedWord s.cfg) :: .arWrite (addressWord s.cfg s.addr7 g) :: s.trace }) ∧
    ∃ t, exec (.configure g) s = .next t ∧ t.ar = addressWord s.cfg s.addr7 g ∧ isDisarmed t.cr = true ∧
      t.cursor = s.cursor ∧ t.outcome = s.outcome ∧ t.buf = s.buf ∧
      t.cfg = s.cfg ∧ t.addr7 = s.addr7 ∧ t.mode = s.mode ∧ t.len = s.len ∧ t.snapshot = s.snapshot ∧
      t.event = s.event ∧ t.phase = s.phase ∧ t.delivered = s.delivered ∧ t.agenda = s.agenda ∧
      ownTrace t = .crWrite (cwDisarmedWord s.cfg) :: .arWrite (addressWord s.cfg s.addr7 g) :: ownTrace s

/-- R101: after `configure(g)` the address register and the control bits are the address word and `CW_DISARMED` whatever
they were before, so calling it again with the same argument leaves the same controller state; with different arguments
the last call wins. -/
def Obligations.ConfigureIsIdempotent : Prop :=
  ∀ (s t u : State) (g h : Bool), s.cfg.wf = true → s.gaps = [] → exec (.configure g) s = .next t →
    exec (.configure h) t = .next u →
    t.cr = disarmed s.cr.int ∧ t.ar = addressWord s.cfg s.addr7 g ∧
      u.cr = t.cr ∧ u.ar = addressWord s.cfg s.addr7 h ∧ (h = g → u.ar = t.ar) ∧
      u.sr = t.sr ∧ u.dr = t.dr ∧ u.flag = t.flag ∧ u.buf = t.buf ∧ u.phase = t.phase

/-- R102, R104: `arm()` in IDLE, and the command `CW_ARM` in any state, is one write after which acknowledge-enable,
enable and interrupt-enable are 1, start and stop are 0, and the pending flag is clear, from any control state; the flag
and all else stay. -/
def Obligations.ArmArmsInOneWrite : Prop :=
  ∀ (s : State), s.cfg.wf = true →
    exec .cwArm s = .next { s with cr := rearmed, trace := .crWrite (cwArmWord s.cfg) :: s.trace } ∧
    (s.phase = .idle →
      exec .arm s = .next { s with cr := rearmed, trace := .crWrite (cwArmWord s.cfg) :: s.trace }) ∧
    isArmed rearmed = true

/-- R105, R106: `CW_NACK` clears the pending flag and acknowledge-enable and stays `Armed`; `CW_DISARMED` and
`disarmAndReset()` clear every enable and leave the pending flag; nothing else changes. After the disarm neither the bus
environment nor the interrupt context (level kind) has a step, and a second disarm leaves the same control state. -/
def Obligations.NackAndDisarmWriteTheirWords : Prop :=
  ∀ (s : State), s.cfg.wf = true →
    exec .cwNack s = .next { s with cr := nacked, trace := .crWrite (cwNackWord s.cfg) :: s.trace } ∧
    exec .cwDisarmed s =
      .next { s with cr := disarmed s.cr.int, trace := .crWrite (cwDisarmedWord s.cfg) :: s.trace } ∧
    exec .disarmAndReset s =
      .next { s with cr := disarmed s.cr.int, trace := .crWrite (cwDisarmedWord s.cfg) :: s.trace } ∧
    isArmed nacked = true ∧ (∀ b, isDisarmed (disarmed b) = true) ∧
    ∀ t, exec .disarmAndReset s = .next t →
      (∀ v d, busEvent v d t = t) ∧ exec .signal t = .next t ∧
      ∀ u, exec .disarmAndReset t = .next u → u.cr = t.cr

/-- R58, R77: an address word written to `AR` sets it and has no other effect. -/
def Obligations.AddressWordWriteSetsTheAddressRegister : Prop :=
  ∀ (s : State) (a : Addr7) (g : Bool),
    exec (.arWord a g) s =
      .next { s with ar := addressWord s.cfg a g, trace := .arWrite (addressWord s.cfg a g) :: s.trace }

/-- R110, R206: `configure`, `arm`, `receive` and `respond` issued while a call is in progress are refused, and so, at
the step, is every operation of the caller's, whichever it is (the form of the refusal is log entry 10). -/
def Obligations.OperationsDuringACallAreRefused : Prop :=
  ∀ (s : State), s.phase ≠ .idle →
    (∀ i, (∃ g, i = .configure g) ∨ i = .arm ∨ (∃ b, i = .receive b) ∨ (∃ b, i = .respond b) →
      exec i s = .refused .operationDuringCall) ∧
    ∀ i gs rest, s.cfg.wf = true → s.agenda = .caller i gs :: rest →
      step s = .refused .operationDuringCall ∨ step s = .refused .notACallerOperation

/-! ### The Interrupt Bridge and the bus environment -/

/-- R121, R127, R200: while `IRQ = CR.INT AND CR.INT_EN = 1` (the level kind, unmasked) `signal()` sets the flag and
touches nothing else; while it is 0, in particular with `INT_EN = 0`, it is no step. -/
def Obligations.SignalSetsOnlyTheFlagWhileRequested : Prop :=
  ∀ (s : State), s.cfg.irqKind = .level → s.cfg.globalIe = true →
    (s.cr.int = true ∧ s.cr.intEn = true →
      exec .signal s = .next { s with flag := true, trace := .signal :: s.trace }) ∧
    (s.cr.int = false ∨ s.cr.intEn = false → exec .signal s = .next s)

/-- D9, R241 with `IRQ_KIND = pulse` (log entry 9): `signal()` runs once for a pulse, which it uses up. -/
def Obligations.PulseSignalRunsOnce : Prop :=
  ∀ (s : State), s.cfg.irqKind = .pulse → s.cfg.globalIe = true → s.cr.intEn = true → s.edge = true →
    ∃ t, exec .signal s = .next t ∧ t = { s with flag := true, edge := false, trace := .signal :: s.trace } ∧
      exec .signal t = .next t

/-- R123: `observe` reads the flag and changes nothing. -/
def Obligations.ObserveReadsTheFlagOnly : Prop :=
  ∀ (s : State), exec .takeObserve s = .next { s with trace := .flagRead s.flag :: s.trace }

/-- R124: `clear` makes the flag false whatever it was, and changes nothing else. -/
def Obligations.ClearResetsTheFlagUnconditionally : Prop :=
  ∀ (s : State), exec .takeClear s = .next { s with flag := false, trace := .flagClear :: s.trace }

/-- R65: a `BusEvent(s, d)` is made exactly while `CR.EN = 1` and `CR.INT = 0`; it sets the status field and keeps the
prescaler bits, sets `DR` only when it delivers a byte, sets `CR.INT`, and touches nothing else (level kind). A data status
without a byte is no bus event (R35, R222; log entry 24). -/
def Obligations.BusEventFollowsItsContract : Prop :=
  ∀ (s : State) (v : Byte) (d : Option Byte) (rest : List Move), s.cfg.wf = true → s.cfg.irqKind = .level →
    s.agenda = .env (.bus v d) :: rest →
    (s.cr.en = true ∧ s.cr.int = false ∧ (isDataStatus s.cfg v = true → d ≠ none) → ∃ t, step s = .next t ∧
      t = { s with
        agenda := rest
        sr := (v &&& ~~~s.cfg.prescalerMask) ||| (s.sr &&& s.cfg.prescalerMask)
        dr := match d with
          | some b => b
          | none => s.dr
        cr := { s.cr with int := true }
        trace := .busEvent v d :: s.trace } ∧
      snapshotOf s.cfg t.sr = snapshotOf s.cfg v) ∧
    (s.cr.en = false ∨ s.cr.int = true ∨ (isDataStatus s.cfg v = true ∧ d = none) →
      step s = .next { s with agenda := rest })

/-! ### The calls and the phases -/

/-- R130, R131: in IDLE `receive(buffer)` and `respond(buffer)` start a call at cursor 0 in WAIT, with no register access
and the flag untouched; the buffer reads as the caller's bytes. -/
def Obligations.CallsStartAtCursorZero : Prop :=
  ∀ (s : State) (b : List Byte), s.phase = .idle → b.length ≤ 2 ^ s.cfg.cursorBits - 1 →
    ∃ mem : Memory, mem.wf = true ∧ mem.toBytes b.length = b ∧ mem.below b.length = true ∧
      exec (.receive b) s = .next { s with
        mode := some .receive, buf := mem, len := some b.length, cursor := some 0, outcome := none, phase := .wait } ∧
      exec (.respond b) s = .next { s with
        mode := some .respond, buf := mem, len := some b.length, cursor := some 0, outcome := none, phase := .wait }

/-- U13, R141: a buffer longer than `2^CURSOR_BITS − 1` is refused. -/
def Obligations.OverlongBufferIsRefused : Prop :=
  ∀ (s : State) (b : List Byte), s.phase = .idle → 2 ^ s.cfg.cursorBits ≤ b.length →
    exec (.receive b) s = .refused .bufferTooLong ∧ exec (.respond b) s = .refused .bufferTooLong

/-- R132, R123: the WAIT step is `exec` of `take.observe`, one flag read and nothing else, and moves to SNAPSHOT exactly
when the flag was true. -/
def Obligations.WaitStepObservesAndSpins : Prop :=
  ∀ (s : State) (gs : List (List EnvMove)) (rest : List Move), s.cfg.wf = true → s.phase = .wait →
    s.agenda = .engine gs :: rest →
    ∃ t, t = { s with agenda := rest, gaps := gs, trace := .flagRead s.flag :: s.trace } ∧
      exec .takeObserve { s with agenda := rest, gaps := gs } = .next t ∧
      step s = .next { t with phase := if s.flag then .snapshot else .wait }

/-- R133: the SNAPSHOT step reads `SR` once, forms the snapshot and the event, and moves to ACT. -/
def Obligations.SnapshotStepReadsAndDecodes : Prop :=
  ∀ (s : State) (gs : List (List EnvMove)) (rest : List Move), s.cfg.wf = true → s.phase = .snapshot →
    s.agenda = .engine gs :: rest →
    step s = .next { s with
      agenda := rest
      gaps := gs
      snapshot := some (s.sr &&& ~~~s.cfg.prescalerMask)
      event := some (decodeEvent s.cfg (s.sr &&& ~~~s.cfg.prescalerMask))
      phase := .act
      trace := .srRead s.sr :: s.trace }

/-- R134, R75: when the snapshot byte decodes, under the call's mode, to the row `i`, the ACT step is `exec` of `i`, and
then `phase` is CLEAR; a fault or a refusal of the row is the step's. -/
def Obligations.ActStepRunsTheDecodedRow : Prop :=
  ∀ (s : State) (gs : List (List EnvMove)) (rest : List Move) (m : Mode) (v : Byte) (i : Instr),
    s.cfg.wf = true → s.phase = .act → s.agenda = .engine gs :: rest → s.mode = some m → s.snapshot = some v →
    s.event = some (decodeEvent s.cfg v) → snapshotOf s.cfg v = v → decode s.cfg (.status m) [v] = .ok (i, []) →
    (∀ t, exec i { s with agenda := rest, gaps := gs } = .next t → step s = .next { t with phase := .clear }) ∧
    (∀ r, exec i { s with agenda := rest, gaps := gs } = .fault r → step s = .fault r) ∧
    (∀ r, exec i { s with agenda := rest, gaps := gs } = .refused r → step s = .refused r)

/-- R135: the CLEAR step is `exec` of `take.clear` (R124) and moves to WAIT without an outcome and to DONE with one. -/
def Obligations.ClearStepClearsAndContinuesOrEnds : Prop :=
  ∀ (s : State) (gs : List (List EnvMove)) (rest : List Move), s.cfg.wf = true → s.phase = .clear →
    s.agenda = .engine gs :: rest →
    ∃ t, t = { s with agenda := rest, gaps := gs, flag := false, trace := .flagClear :: s.trace } ∧
      exec .takeClear { s with agenda := rest, gaps := gs } = .next t ∧
      (s.outcome = none → step s = .next { t with phase := .wait }) ∧
      (s.outcome ≠ none → step s = .next { t with phase := .done })

/-- R136, R203: the DONE step delivers the outcome with the buffer and goes to IDLE; the working registers lose their
values; no register of the block is accessed. `outcome` staying readable is log entry 6. -/
def Obligations.DoneStepReturnsToTheCaller : Prop :=
  ∀ (s : State) (gs : List (List EnvMove)) (rest : List Move) (o : CallOutcome) (l : Nat), s.cfg.wf = true →
    s.phase = .done → s.agenda = .engine gs :: rest → s.outcome = some o → s.len = some l →
    step s = .next { s with
      agenda := rest, gaps := gs, phase := .idle, mode := none, cursor := none, len := none, snapshot := none,
      event := none, delivered := { outcome := o, buf := s.buf, len := l } :: s.delivered }

/-- R205, R199: a step of the interrupt context is `exec` of `signal`, and a step of the caller is `exec` of the
operation it issues, `configure`, `arm`, `receive` or `respond` (R79). -/
def Obligations.CallerAndInterruptStepsAreExec : Prop :=
  ∀ (s : State) (rest : List Move), s.cfg.wf = true →
    (s.agenda = .env .signal :: rest → step s = exec .signal { s with agenda := rest }) ∧
    ∀ i gs, s.agenda = .caller i gs :: rest →
      (∃ g, i = .configure g) ∨ i = .arm ∨ (∃ b, i = .receive b) ∨ (∃ b, i = .respond b) →
      step s = exec i { s with agenda := rest, gaps := gs }

/-- R127, R201, with the model's schedule for an agenda that is used up (log entry 4): a request the flag does not show is
served by `exec` of `signal`; otherwise the engine takes its step, as if an engine move were scheduled. -/
def Obligations.EmptyAgendaServesTheRequestOrRunsTheEngine : Prop :=
  ∀ (s : State), s.cfg.wf = true → s.agenda = [] →
    (irq s = true ∧ s.flag = false → step s = exec .signal s) ∧
    (irq s = false ∨ s.flag = true → step s = step { s with agenda := [.engine []] })

/-! ### The rows of RECEIVE and RESPOND -/

/-- R151, R153: the two address rows re-arm, and nothing else changes. -/
def Obligations.ReceiveAddressRowsRearm : Prop :=
  ∀ (s : State) (i : Instr), i = .rxSrSlaAck ∨ i = .rxSrGcallAck → s.cfg.wf = true →
    exec i s = .next { s with cr := rearmed, trace := .crWrite (cwArmWord s.cfg) :: s.trace }

/-- R152, R154, R174, R192: the three arbitration-loss rows write `CW_NACK`, then `CW_DISARMED`, raise `ArbitrationLost`,
and keep the buffer and the cursor (in RESPOND by R22 and R38); another agent may move between the two writes (R134).
That their NACK is `CW_NACK` is the spec's decision D4. -/
def Obligations.ArbitrationLossRowsNackThenDisarm : Prop :=
  ∀ (s : State) (i : Instr), i = .rxSrArbSlaAck ∨ i = .rxSrArbGcallAck ∨ i = .txStArbSlaAck → s.cfg.wf = true →
    ∃ t, exec i s = .next t ∧ t.outcome = some (.err .arbitrationLost) ∧ isDisarmed t.cr = true ∧
      t.cursor = s.cursor ∧ SameBytes s t ∧ t.buf = s.buf ∧ RowFrame s t ∧
      ownTrace t = .crWrite (cwDisarmedWord s.cfg) :: .crWrite (cwNackWord s.cfg) :: ownTrace s ∧
      (s.gaps = [] → t.cr = disarmed false ∧ EnvFrame s t)

/-- R155, R157: a data row with room stores the byte in `DR` at the cursor, moves the cursor on and re-arms, in that
order; every other byte of the buffer stays (the canonical form of the buffer is part of `Inv`). With `cursor = L` it
disarms and raises `BufferOverflow`: `DR` is not read, nothing is stored, no NACK is issued. -/
def Obligations.ReceiveDataRowsStoreOrOverflow : Prop :=
  ∀ (s : State) (i : Instr) (c l : Nat), i = .rxSrDataAck ∨ i = .rxSrGcallDataAck → s.cfg.wf = true →
    s.buf.wf = true → s.cursor = some c → s.len = some l →
    (c < l →
      ∃ t, exec i s = .next t ∧ t.buf.read c = s.dr ∧ (∀ a, a ≠ c → t.buf.read a = s.buf.read a) ∧
        t.cursor = some (c + 1) ∧ t.cr = rearmed ∧ t.outcome = s.outcome ∧ RowFrame s t ∧
        ownTrace t = .crWrite (cwArmWord s.cfg) :: .bufWrite c s.dr :: .drRead s.dr :: ownTrace s ∧
        (s.gaps = [] → EnvFrame s t)) ∧
    (c = l →
      exec i s = .next { s with
        cr := disarmed s.cr.int
        outcome := some (.err .bufferOverflow)
        trace := .crWrite (cwDisarmedWord s.cfg) :: s.trace })

/-- R156, R158: the two ending rows disarm and succeed; no store, no read of `DR`, no overflow check. -/
def Obligations.ReceiveEndRowsSucceed : Prop :=
  ∀ (s : State) (i : Instr), i = .rxSrDataFinal ∨ i = .rxSrStop → s.cfg.wf = true →
    exec i s = .next { s with
      cr := disarmed s.cr.int
      outcome := some .okReceive
      trace := .crWrite (cwDisarmedWord s.cfg) :: s.trace }

/-- R159, R193: a read addressed to a receive call loads the dummy byte, writes `CW_NACK` and `CW_DISARMED` and raises
`NotExpectedTransactionDirection`; the buffer and the cursor stay. -/
def Obligations.ReceiveWrongDirectionSendsTheDummy : Prop :=
  ∀ (s : State), s.cfg.wf = true →
    ∃ t, exec .rxStSlaAck s = .next t ∧ t.outcome = some (.err .notExpectedTransactionDirection) ∧
      isDisarmed t.cr = true ∧ t.cursor = s.cursor ∧ SameBytes s t ∧ t.buf = s.buf ∧ RowFrame s t ∧
      ownTrace t = .crWrite (cwDisarmedWord s.cfg) :: .crWrite (cwNackWord s.cfg) ::
        .drWrite s.cfg.dummyByte :: ownTrace s ∧
      (s.gaps = [] → t.cr = disarmed false ∧ t.dr = s.cfg.dummyByte ∧ t.sr = s.sr ∧ t.flag = s.flag)

/-- R175, R193: a write addressed to a respond call disarms alone and raises `NotExpectedTransactionDirection`. -/
def Obligations.RespondWrongDirectionDisarmsOnly : Prop :=
  ∀ (s : State), s.cfg.wf = true →
    exec .txSrSlaAck s = .next { s with
      cr := disarmed s.cr.int
      outcome := some (.err .notExpectedTransactionDirection)
      trace := .crWrite (cwDisarmedWord s.cfg) :: s.trace }

/-- R160, R176, R194: every event without a row of its own in the mode disarms and raises `UnknownState` with the
snapshot. -/
def Obligations.DefaultRowsReportTheSnapshot : Prop :=
  ∀ (s : State) (i : Instr) (v : Byte),
    i = .rxStArbSlaAck ∨ i = .rxStDataAck ∨ i = .rxStDataNack ∨ i = .rxStLastData ∨ (∃ c, i = .rxUnrecognized c) ∨
    i = .txSrArbSlaAck ∨ i = .txSrGcallAck ∨ i = .txSrArbGcallAck ∨ i = .txSrDataAck ∨ i = .txSrDataFinal ∨
    i = .txSrGcallDataAck ∨ i = .txSrStop ∨ (∃ c, i = .txUnrecognized c) →
    s.cfg.wf = true → s.snapshot = some v →
    exec i s = .next { s with
      cr := disarmed s.cr.int
      outcome := some (.err (.unknownState v))
      trace := .crWrite (cwDisarmedWord s.cfg) :: s.trace }

/-- R170: the row of `ST_SLA_ACK`, while there is a byte left, loads it into `DR`, moves the cursor on and re-arms with
acknowledge, in that order. With the buffer used up (`cursor = L`; for `cursor = L > 0` this is D13) it loads the pad byte
0x00 and commands NACK-next; the call goes on and the pad is not counted. The buffer stays. While the event is pending
nobody else changes `DR` (R57). -/
def Obligations.RespondAddressRowLoadsOrPads : Prop :=
  ∀ (s : State) (c l : Nat), s.cfg.wf = true → s.cursor = some c → s.len = some l →
    (c < l →
      ∃ t, exec .txStSlaAck s = .next t ∧ t.cursor = some (c + 1) ∧ t.cr = rearmed ∧ t.outcome = s.outcome ∧
        SameBytes s t ∧ t.buf = s.buf ∧ RowFrame s t ∧
        ownTrace t =
          .crWrite (cwArmWord s.cfg) :: .drWrite (s.buf.read c) :: .bufRead c (s.buf.read c) :: ownTrace s ∧
        (s.gaps = [] ∨ s.cr.int = true → t.dr = s.buf.read c) ∧
        (s.gaps = [] → t.sr = s.sr ∧ t.flag = s.flag ∧ t.edge = s.edge)) ∧
    (c = l →
      ∃ t, exec .txStSlaAck s = .next t ∧ t.cursor = some c ∧ t.cr = nacked ∧ t.outcome = s.outcome ∧
        SameBytes s t ∧ t.buf = s.buf ∧ RowFrame s t ∧
        ownTrace t = .crWrite (cwNackWord s.cfg) :: .drWrite 0x00#8 :: ownTrace s ∧
        (s.gaps = [] ∨ s.cr.int = true → t.dr = 0x00#8) ∧
        (s.gaps = [] → t.sr = s.sr ∧ t.flag = s.flag ∧ t.edge = s.edge))

/-- R171: the row of `ST_DATA_ACK`, while there is a byte left, loads it into `DR`, moves the cursor on and re-arms with
acknowledge, in that order. With the buffer used up it loads the pad byte 0x00, commands NACK-next, disarms (R139, C3) and
succeeds with the cursor, the pad not counted. The buffer stays. -/
def Obligations.RespondDataRowLoadsOrSucceeds : Prop :=
  ∀ (s : State) (c l : Nat), s.cfg.wf = true → s.cursor = some c → s.len = some l →
    (c < l →
      ∃ t, exec .txStDataAck s = .next t ∧ t.cursor = some (c + 1) ∧ t.cr = rearmed ∧ t.outcome = s.outcome ∧
        SameBytes s t ∧ t.buf = s.buf ∧ RowFrame s t ∧
        ownTrace t =
          .crWrite (cwArmWord s.cfg) :: .drWrite (s.buf.read c) :: .bufRead c (s.buf.read c) :: ownTrace s ∧
        (s.gaps = [] ∨ s.cr.int = true → t.dr = s.buf.read c) ∧
        (s.gaps = [] → t.sr = s.sr ∧ t.flag = s.flag ∧ t.edge = s.edge)) ∧
    (c = l →
      ∃ t, exec .txStDataAck s = .next t ∧ t.outcome = some (.okRespond c) ∧ t.cursor = some c ∧
        isDisarmed t.cr = true ∧ SameBytes s t ∧ t.buf = s.buf ∧ RowFrame s t ∧
        ownTrace t =
          .crWrite (cwDisarmedWord s.cfg) :: .crWrite (cwNackWord s.cfg) :: .drWrite 0x00#8 :: ownTrace s ∧
        (s.gaps = [] → t.cr = disarmed false ∧ t.dr = 0x00#8 ∧ t.sr = s.sr ∧ t.flag = s.flag ∧ t.edge = s.edge))

/-- R172, R173: the two ending rows of RESPOND disarm and succeed with the count. -/
def Obligations.RespondEndRowsReturnTheCount : Prop :=
  ∀ (s : State) (i : Instr) (c : Nat), i = .txStDataNack ∨ i = .txStLastData → s.cfg.wf = true → s.cursor = some c →
    exec i s = .next { s with
      cr := disarmed s.cr.int
      outcome := some (.okRespond c)
      trace := .crWrite (cwDisarmedWord s.cfg) :: s.trace }

/-- R196, R150, R177: in a call every (mode, event) row completes and raises the outcome of the table, or none; it writes
`CR` last, `CW_DISARMED` if it ends the call and an arming word if it goes on (R143, R139). -/
def Obligations.EveryRowRaisesTheOutcomeOfTheTable : Prop :=
  ∀ (s : State) (m : Mode) (e : Event) (c l : Nat) (v : Byte), s.cfg.wf = true → s.mode = some m →
    s.cursor = some c → s.len = some l → c ≤ l → s.snapshot = some v → s.outcome = none →
    ∃ t a, exec (rowInstr m e) s = .next t ∧ t.outcome = outcomeTable m e c l v ∧ t.trace.head? = some (.crWrite a) ∧
      (outcomeTable m e c l v ≠ none → a = cwDisarmedWord s.cfg ∧ isDisarmed t.cr = true) ∧
      (outcomeTable m e c l v = none → (a = cwArmWord s.cfg ∧ t.cr = rearmed) ∨ (a = cwNackWord s.cfg ∧ t.cr = nacked))

/-- R134, R144: whatever the other agents do between a row's accesses, the row does the same: same outcome, cursor,
buffer and enables, same own accesses. -/
def Obligations.InterleavingDoesNotChangeARow : Prop :=
  ∀ (s t : State) (m : Mode) (e : Event) (gs : List (List EnvMove)), s.cfg.wf = true →
    exec (rowInstr m e) { s with gaps := gs } = .next t →
    ∃ u, exec (rowInstr m e) { s with gaps := [] } = .next u ∧ t.outcome = u.outcome ∧ t.cursor = u.cursor ∧
      t.buf = u.buf ∧ t.cr.ackEn = u.cr.ackEn ∧ t.cr.en = u.cr.en ∧ t.cr.intEn = u.cr.intEn ∧
      t.cr.start = u.cr.start ∧ t.cr.stop = u.cr.stop ∧ RowFrame u t ∧ ownTrace t = ownTrace u

/-! ### Rules of the whole machine -/

/-- R221, R10, R222: reset meets the invariant, and nothing has been read before it was written, for any legal parameters
and any bytes in the unspecified registers. -/
def Obligations.ResetMeetsTheInvariant : Prop :=
  (∀ (p : Params) (ar sr dr : Byte), p.wf = true → Inv (State.boot p ar sr dr) ∧ Sourced (State.boot p ar sr dr)) ∧
    Inv State.reset ∧ Sourced State.reset

/-- R22, R23, R111, R136, R139, R142, R178, R195: every step keeps the invariant, from any state that meets it, for every
schedule of the agents. R222: and every step keeps that `SR` and `DR` are read only after an event has written them. -/
def Obligations.EveryStepKeepsTheInvariant : Prop :=
  (∀ (s t : State), Inv s → step s = .next t → Inv t) ∧
  ∀ (s t : State), Sourced s → step s = .next t → Sourced t

/-- R27, R52: from a state of the invariant no step faults: no working register is read without a value and no buffer
access is out of range. -/
def Obligations.NoStepFaultsFromTheInvariant : Prop :=
  ∀ (s : State) (r : Fault), Inv s → step s ≠ .fault r

/-- R140: the phase moves only along its successors. -/
def Obligations.PhaseMovesOnlyToItsSuccessors : Prop :=
  ∀ (s t : State), step s = .next t → phaseSuccessor s.phase t.phase = true

/-- R138: no step leaves WAIT unless the flag is true, and then it goes to SNAPSHOT. -/
def Obligations.WaitIsLeftOnlyOnATrueFlag : Prop :=
  ∀ (s t : State), step s = .next t → s.phase = .wait → t.phase ≠ .wait → s.flag = true ∧ t.phase = .snapshot

/-- R139: a step that raises an outcome leaves the controller `Disarmed`, whatever the outcome. -/
def Obligations.RaisingAnOutcomeDisarms : Prop :=
  ∀ (s t : State), step s = .next t → s.outcome = none → t.outcome ≠ none → isDisarmed t.cr = true ∧ t.phase = .clear

/-- R25, R245: only `signal()` sets the flag and only CLEAR's `clear` clears it. -/
def Obligations.FlagIsSetBySignalAndClearedByClear : Prop :=
  ∀ (s t : State), step s = .next t →
    (s.flag = false → t.flag = true → ∃ new, t.trace = new ++ s.trace ∧ Access.signal ∈ new) ∧
    (s.flag = true → t.flag = false → s.phase = .clear ∧ t.trace = .flagClear :: s.trace)

/-- R41, R21, R29: the configuration and `addr7` never change, `AR` changes only in IDLE, and `mode` and `L` do not change
during a call. -/
def Obligations.ModeLengthAndConfigurationAreFixed : Prop :=
  ∀ (s t : State), step s = .next t →
    t.cfg = s.cfg ∧ t.addr7 = s.addr7 ∧ (s.phase ≠ .idle → t.ar = s.ar) ∧
    (s.phase ≠ .idle → t.phase ≠ .idle → t.mode = s.mode ∧ t.len = s.len)

/-- R161, R38, R29: in a receive call a step never reads the buffer, and it writes `DR` only in the row of `ST_SLA_ACK`;
in a respond call a step never writes the buffer. -/
def Obligations.ReceiveNeverReadsAndRespondNeverWritesTheBuffer : Prop :=
  ∀ (s t : State), step s = .next t → s.phase ≠ .idle →
    ∃ new, t.trace = new ++ s.trace ∧
      (s.mode = some .receive → (∀ a ∈ new, a.isBufRead = false) ∧
        (s.event ≠ some .stSlaAck → ∀ a ∈ new, a.isDrWrite = false)) ∧
      (s.mode = some .respond → t.buf = s.buf)

/-- R143: one event handled by the engine, from a true flag to the clear: one `FlagRead` returning true, one read of `SR`,
the row's accesses (at most one to `DR`, at most one to the buffer, then one or two writes to `CR`), one clear. A
continuing row issues one control write, `CW_ARM` or `CW_NACK`; a terminal row's last one is `CW_DISARMED`. The record
lists the latest access first. -/
def Obligations.OneEventIsHandledInOrder : Prop :=
  ∀ (s : State) (g1 g2 g3 g4 : List (List EnvMove)) (rest : List Move), Inv s → s.phase = .wait → s.flag = true →
    s.agenda = .engine g1 :: .engine g2 :: .engine g3 :: .engine g4 :: rest →
    ∃ (t : State) (control data : List Access), Sys2Proof.core.run 4 s = .next t ∧ t.agenda = rest ∧
      ownTrace t = .flagClear :: (control ++ (data ++ (.srRead s.sr :: .flagRead true :: ownTrace s))) ∧
      (∀ a ∈ control, a.isCrWrite = true) ∧ (∀ a ∈ data, a.isDr = true ∨ a.isBuf = true) ∧
      (data.filter Access.isDr).length ≤ 1 ∧ (data.filter Access.isBuf).length ≤ 1 ∧
      1 ≤ control.length ∧ control.length ≤ 2 ∧
      (t.phase = .wait → control = [.crWrite (cwArmWord s.cfg)] ∨ control = [.crWrite (cwNackWord s.cfg)]) ∧
      (t.phase = .done → control.head? = some (.crWrite (cwDisarmedWord s.cfg))) ∧ (t.phase = .wait ∨ t.phase = .done)

/-- R138, R232 (b), R242: a call on a disarmed controller spins in WAIT for ever, whatever the engine, the interrupt
context and the bus environment try. -/
def Obligations.UnarmedCallNeverReturns : Prop :=
  ∀ (n : Nat) (s : State), s.cfg.wf = true → s.phase = .wait → s.flag = false → isDisarmed s.cr = true →
    (∀ m ∈ s.agenda, ∀ i gs, m ≠ .caller i gs) →
    ∃ t : State, Sys2Proof.core.run n s = .next t ∧ t.phase = .wait ∧ t.flag = false ∧ t.outcome = s.outcome ∧
      t.buf = s.buf ∧ t.cr = s.cr

/-- R127 (b), R241: with the level request an event that lands between the re-arm and the clear is not lost. After the
clear the request still stands, so the interrupt context signals again, and the engine then reads that event's status.
That the schedule lets it move by itself is log entry 4. -/
def Obligations.LevelRequestSurvivesTheClear : Prop :=
  ∀ (s : State) (gs : List (List EnvMove)), s.cfg.wf = true → s.cfg.irqKind = .level → s.cfg.globalIe = true →
    s.phase = .clear → s.outcome = none → s.cr.int = true → s.cr.intEn = true → s.agenda = [.engine gs] →
    ∃ t : State, Sys2Proof.core.run 4 s = .next t ∧ t.phase = .act ∧ t.flag = true ∧
      t.snapshot = some (snapshotOf s.cfg s.sr) ∧ t.dr = s.dr ∧ t.cursor = s.cursor ∧ t.buf = s.buf

/-- R241 with `IRQ_KIND = pulse` (log entry 9): when the pulse of the second event was already used up, the clear loses
the event: the call spins in WAIT for ever with the event pending. -/
def Obligations.PulseRequestIsLostByTheClear : Prop :=
  ∀ (n : Nat) (s : State) (gs : List (List EnvMove)), s.cfg.wf = true → s.cfg.irqKind = .pulse → s.phase = .clear →
    s.outcome = none → s.cr.int = true → s.edge = false → s.agenda = [.engine gs] →
    ∃ t : State, Sys2Proof.core.run (n + 1) s = .next t ∧ t.phase = .wait ∧ t.flag = false ∧ t.cr.int = true

/-! ### Whole calls -/

/-- R162, R158: a receive call that waits with `c` bytes stored, fed in the canonical run with any sequence of address
events and data events that fit the rest of the buffer, and then with a stop or final event, ends in DONE with `Ok`; the
data bytes stand in the buffer from index `c` in order, and every other byte is unchanged. -/
def Obligations.ReceiveCallStoresTheBytesInOrder : Prop :=
  ∀ (s : State) (c l : Nat) (xs : List BusItem) (last : BusItem) (rest : List Move),
    Waiting .receive c l s → (∀ x ∈ xs, receiveContinues s.cfg x = true) → receiveEnds s.cfg last = true →
    c + (xs.filterMap (acceptedByte s.cfg)).length ≤ l →
    s.agenda = (xs ++ [last]).flatMap itemMoves ++ rest →
    ∃ t : State, Sys2Proof.core.run (6 * (xs.length + 1)) s = .next t ∧ t.phase = .done ∧ t.outcome = some .okReceive ∧
      t.agenda = rest ∧ isDisarmed t.cr = true ∧ t.flag = false ∧
      t.cursor = some (c + (xs.filterMap (acceptedByte s.cfg)).length) ∧
      (∀ k, (h : k < (xs.filterMap (acceptedByte s.cfg)).length) →
        t.buf.read (c + k) = (xs.filterMap (acceptedByte s.cfg))[k]) ∧
      ∀ a, a < c ∨ c + (xs.filterMap (acceptedByte s.cfg)).length ≤ a → t.buf.read a = s.buf.read a

/-- R178, R51: a respond call that waits with `c` bytes already offered, fed in the canonical run with any number of
loading events that the rest of the buffer can serve, and then with an ending event, ends in DONE with `Ok(count)`, where
the count is the number of bytes offered; they were loaded into `DR` in index order; the buffer is unchanged. -/
def Obligations.RespondCallOffersTheBytesInOrder : Prop :=
  ∀ (s : State) (c l : Nat) (xs : List BusItem) (last : BusItem) (rest : List Move),
    Waiting .respond c l s → (∀ x ∈ xs, respondLoads s.cfg x = true) → respondEnds s.cfg last = true →
    c + xs.length ≤ l → s.agenda = (xs ++ [last]).flatMap itemMoves ++ rest →
    ∃ t : State, Sys2Proof.core.run (6 * (xs.length + 1)) s = .next t ∧ t.phase = .done ∧
      t.outcome = some (.okRespond (c + xs.length)) ∧ t.agenda = rest ∧ isDisarmed t.cr = true ∧ t.flag = false ∧
      t.buf = s.buf ∧
      loadedBytes t = ((List.range xs.length).map fun k => s.buf.read (c + k)).reverse ++ loadedBytes s

/-! ### The control register as a byte, and who may write it -/

/-- R28, R31, R55: `CR` holds eight bits: every byte is the control bits read from it, put back at their positions. After
`IoWrite(CR, v)` the register's byte has the named bits of `v`, but `INT`, which is the old one unless `v` clears it, and 0
at the unnamed positions (log entry 8). -/
def Obligations.ControlRegisterHoldsEightBits : Prop :=
  (∀ (p : Params) (b : Byte), p.wf = true → p.control.word (p.control.fields b) = b) ∧
  (∀ (p : Params) (c : Control), p.wf = true → p.control.fields (p.control.word c) = c) ∧
  ∀ (s : State) (v : Byte) (n : Nat), s.cfg.wf = true →
    (s.cfg.control.word (ioWriteCr v s).cr).getLsbD n =
      if n = s.cfg.control.int then (s.cfg.control.word s.cr).getLsbD n && !v.getLsbD n
      else v.getLsbD n && s.cfg.control.toList.contains n

/-- R79, R110, R29, R206, U14: whatever the phase, an operation that is not the caller's, a bare word to `CR` or `AR`
included, is refused when the caller issues it. -/
def Obligations.EngineOperationsAreRefusedFromTheCaller : Prop :=
  ∀ (s : State) (i : Instr) (gs : List (List EnvMove)) (rest : List Move), s.cfg.wf = true →
    s.agenda = .caller i gs :: rest →
    ¬ ((∃ g, i = .configure g) ∨ i = .arm ∨ (∃ b, i = .receive b) ∨ ∃ b, i = .respond b) →
    step s = .refused .notACallerOperation

/-- R200: a disarmed controller stays disarmed until the caller's next `arm()`, and while it is disarmed no step makes the
flag true. Left out is the ACT step of a call, whose row may re-arm (R104), the write that `arm()` is. -/
def Obligations.OnlyArmEndsTheDisarmedState : Prop :=
  ∀ (s t : State), step s = .next t → s.phase ≠ .act → isDisarmed s.cr = true →
    (s.flag = false → t.flag = false) ∧
    (isDisarmed t.cr = true ∨ (s.phase = .idle ∧ ∃ gs rest, s.agenda = .caller .arm gs :: rest))
end

