-- ==== Sys2Proof/Laws/Codec.lean ====
section
/-! SUPPORT. The laws of the encodings: bytes with one bit set, the named bits of a control word, snapshots, the codes of
a legal configuration. -/

namespace Sys2Proof

/-! ### Legal configurations -/

theorem allDistinct_iff_nodup {α : Type} [DecidableEq α] (xs : List α) : allDistinct xs = true ↔ xs.Nodup := by
  induction xs with
  | nil => simp [allDistinct]
  | cons x xs ih => simp [allDistinct, ih]

theorem Params.wf_iff (p : Params) : p.wf = true ↔
    p.codesDistinct = true ∧ p.codesClearOfPrescaler = true ∧ p.control.wf = true ∧
      p.addressFieldsDisjoint = true ∧ p.slaveAddrFits = true := by
  simp [Params.wf, and_assoc]

theorem Params.control_wf {p : Params} (h : p.wf = true) : p.control.wf = true := ((Params.wf_iff p).1 h).2.2.1

/-- R10 (a). -/
theorem Params.codes_nodup {p : Params} (h : p.wf = true) : p.codes.toList.Nodup :=
  (allDistinct_iff_nodup _).1 ((Params.wf_iff p).1 h).1

/-- R10 (b). -/
theorem Params.code_clear {p : Params} (h : p.wf = true) {c : Byte} (hc : c ∈ p.codes.toList) :
    c &&& p.prescalerMask = 0#8 := by
  have := ((Params.wf_iff p).1 h).2.1
  simp only [Params.codesClearOfPrescaler, List.all_eq_true] at this
  simpa using this c hc

/-! ### Single bits and control words -/

theorem getLsbD_bitAt (i n : Nat) (hi : i < 8) : (bitAt i).getLsbD n = decide (n = i) := by
  unfold bitAt
  by_cases hn : n < 8
  · interval_cases i <;> interval_cases n <;> decide
  · have : n ≠ i := by omega
    simp [this, hn]

theorem getLsbD_ite_bitAt (b : Bool) (i n : Nat) (hi : i < 8) :
    (if b then bitAt i else 0#8).getLsbD n = (b && decide (n = i)) := by
  cases b <;> simp [getLsbD_bitAt _ _ hi]

theorem ControlLayout.wf_bounds {l : ControlLayout} (h : l.wf = true) :
    l.int < 8 ∧ l.ackEn < 8 ∧ l.start < 8 ∧ l.stop < 8 ∧ l.en < 8 ∧ l.intEn < 8 := by
  simpa [ControlLayout.wf, ControlLayout.toList, Bool.and_eq_true] using ((Bool.and_eq_true _ _).mp h).2

theorem ControlLayout.wf_nodup {l : ControlLayout} (h : l.wf = true) :
    [l.int, l.ackEn, l.start, l.stop, l.en, l.intEn].Nodup :=
  (allDistinct_iff_nodup _).1 ((Bool.and_eq_true _ _).mp h).1

/-- The unnamed positions of a legal layout: every position that has no name, and there are two. -/
theorem ControlLayout.unnamed_eq {l : ControlLayout} (h : l.wf = true) : l.unnamed = [l.unnamedLow, l.unnamedHigh] := by
  have hl : l.unnamed.length = 2 := by
    have hn : ((List.range 8).filter fun n => l.toList.contains n).Perm l.toList := by
      refine (List.perm_ext_iff_of_nodup (List.nodup_range.filter _) (ControlLayout.wf_nodup h)).2 fun n => ?_
      have hb := ControlLayout.wf_bounds h
      simp only [List.mem_filter, List.mem_range, List.contains_iff_mem, toList, List.mem_cons, List.not_mem_nil, or_false]
      omega
    have hs : 8 = _ + l.unnamed.length :=
      List.length_eq_length_filter_add (l := List.range 8) fun n => l.toList.contains n
    rw [hn.length_eq, show l.toList.length = 6 from rfl] at hs
    omega
  match he : l.unnamed, hl with
  | [a, b], _ => simp [unnamedLow, unnamedHigh, he]

theorem ControlLayout.mem_unnamed {l : ControlLayout} (h : l.wf = true) (n : Nat) :
    n = l.unnamedLow ∨ n = l.unnamedHigh ↔ n < 8 ∧ n ∉ l.toList := by
  have : n ∈ l.unnamed ↔ n < 8 ∧ n ∉ l.toList := by simp [unnamed]
  rw [← this, ControlLayout.unnamed_eq h]
  simp

/-- The eight positions of a legal layout are distinct. -/
theorem ControlLayout.positions_nodup {l : ControlLayout} (h : l.wf = true) :
    [l.int, l.ackEn, l.start, l.stop, l.en, l.intEn, l.unnamedHigh, l.unnamedLow].Nodup := by
  have hn := ControlLayout.wf_nodup h
  have hu : l.unnamed.Nodup := List.nodup_range.filter _
  have hh := ((ControlLayout.mem_unnamed h _).1 (.inr rfl)).2
  have hl := ((ControlLayout.mem_unnamed h _).1 (.inl rfl)).2
  rw [ControlLayout.unnamed_eq h, ← List.nodup_reverse] at hu
  show (l.toList ++ [l.unnamedHigh, l.unnamedLow]).Nodup
  refine List.nodup_append.2 ⟨hn, hu, ?_⟩
  intro a ha b hb hab
  rcases List.mem_pair.1 hb with rfl | rfl
  · exact hh (hab ▸ ha)
  · exact hl (hab ▸ ha)

/-- Each bit of a control word: it is set when it is the position of a bit that is set. -/
theorem ControlLayout.getLsbD_word {l : ControlLayout} (h : l.wf = true) (c : Control) (n : Nat) :
    (l.word c).getLsbD n = (c.int && decide (n = l.int) || c.ackEn && decide (n = l.ackEn) ||
      c.start && decide (n = l.start) || c.stop && decide (n = l.stop) || c.en && decide (n = l.en) ||
      c.intEn && decide (n = l.intEn) || c.unnamedHigh && decide (n = l.unnamedHigh) ||
      c.unnamedLow && decide (n = l.unnamedLow)) := by
  obtain ⟨h1, h2, h3, h4, h5, h6⟩ := ControlLayout.wf_bounds h
  have h7 := ((ControlLayout.mem_unnamed h _).1 (.inr rfl)).1
  have h8 := ((ControlLayout.mem_unnamed h _).1 (.inl rfl)).1
  simp only [ControlLayout.word, BitVec.getLsbD_or, getLsbD_ite_bitAt _ _ _ h1, getLsbD_ite_bitAt _ _ _ h2,
    getLsbD_ite_bitAt _ _ _ h3, getLsbD_ite_bitAt _ _ _ h4, getLsbD_ite_bitAt _ _ _ h5, getLsbD_ite_bitAt _ _ _ h6,
    getLsbD_ite_bitAt _ _ _ h7, getLsbD_ite_bitAt _ _ _ h8]

/-- The bits of a word are the ones it was made from. -/
theorem ControlLayout.fields_word {l : ControlLayout} (h : l.wf = true) (c : Control) : l.fields (l.word c) = c := by
  have hd := ControlLayout.positions_nodup h
  have hs := List.nodup_reverse.2 hd
  simp only [List.reverse_cons, List.reverse_nil, List.nil_append, List.cons_append, List.nodup_cons, List.mem_cons,
    List.not_mem_nil, or_false, not_or, not_false_eq_true, List.nodup_nil, and_true] at hd hs
  simp only [ControlLayout.fields, ControlLayout.getLsbD_word h]
  cases c
  simp [hd, hs]

/-! ### Snapshots -/

@[simp] theorem snapshotOf_snapshotOf (p : Params) (v : Byte) : snapshotOf p (snapshotOf p v) = snapshotOf p v := by
  simp [snapshotOf, BitVec.and_assoc]

/-- A snapshot has no prescaler bit. -/
theorem snapshotOf_and_mask (p : Params) (v : Byte) : snapshotOf p v &&& p.prescalerMask = 0#8 := by
  simp [snapshotOf, BitVec.and_assoc]

/-- A byte without prescaler bits is its own snapshot. -/
theorem snapshotOf_of_clear {p : Params} {v : Byte} (h : v &&& p.prescalerMask = 0#8) : snapshotOf p v = v := by
  apply BitVec.eq_of_getLsbD_eq
  intro i hi
  have := congrArg (·.getLsbD i) h
  simp only [BitVec.getLsbD_and, BitVec.getLsbD_zero] at this
  simp only [snapshotOf, BitVec.getLsbD_and, BitVec.getLsbD_not, hi]
  cases hv : v.getLsbD i <;> simp_all

/-- Whatever prescaler bits are put beside a status, the snapshot is the status's. -/
theorem snapshotOf_or_mask (p : Params) (v w : Byte) :
    snapshotOf p ((v &&& ~~~p.prescalerMask) ||| (w &&& p.prescalerMask)) = snapshotOf p v := by
  apply BitVec.eq_of_getLsbD_eq
  intro i hi
  simp only [snapshotOf, BitVec.getLsbD_and, BitVec.getLsbD_or, BitVec.getLsbD_not, hi]
  cases v.getLsbD i <;> cases w.getLsbD i <;> cases p.prescalerMask.getLsbD i <;> rfl

end Sys2Proof
end

