-- ==== Sys2Proof/Laws/State.lean ====
section
/-! SUPPORT. What each shared operation does to each field of the state, so that no later proof unfolds a record update.
An operation of the polling context: one lemma per field, by `rfl`. A move of another agent: the fields it never
touches. -/

namespace Sys2Proof.Machine

/-! ### `State.record` -/

@[simp] theorem State.record_cfg (a : Access) (s : State) : (State.record a s).cfg = s.cfg := rfl
@[simp] theorem State.record_addr7 (a : Access) (s : State) : (State.record a s).addr7 = s.addr7 := rfl
@[simp] theorem State.record_mode (a : Access) (s : State) : (State.record a s).mode = s.mode := rfl
@[simp] theorem State.record_cursor (a : Access) (s : State) : (State.record a s).cursor = s.cursor := rfl
@[simp] theorem State.record_len (a : Access) (s : State) : (State.record a s).len = s.len := rfl
@[simp] theorem State.record_snapshot (a : Access) (s : State) : (State.record a s).snapshot = s.snapshot := rfl
@[simp] theorem State.record_event (a : Access) (s : State) : (State.record a s).event = s.event := rfl
@[simp] theorem State.record_outcome (a : Access) (s : State) : (State.record a s).outcome = s.outcome := rfl
@[simp] theorem State.record_phase (a : Access) (s : State) : (State.record a s).phase = s.phase := rfl
@[simp] theorem State.record_flag (a : Access) (s : State) : (State.record a s).flag = s.flag := rfl
@[simp] theorem State.record_ar (a : Access) (s : State) : (State.record a s).ar = s.ar := rfl
@[simp] theorem State.record_cr (a : Access) (s : State) : (State.record a s).cr = s.cr := rfl
@[simp] theorem State.record_sr (a : Access) (s : State) : (State.record a s).sr = s.sr := rfl
@[simp] theorem State.record_dr (a : Access) (s : State) : (State.record a s).dr = s.dr := rfl
@[simp] theorem State.record_edge (a : Access) (s : State) : (State.record a s).edge = s.edge := rfl
@[simp] theorem State.record_buf (a : Access) (s : State) : (State.record a s).buf = s.buf := rfl
@[simp] theorem State.record_delivered (a : Access) (s : State) : (State.record a s).delivered = s.delivered := rfl
@[simp] theorem State.record_trace (a : Access) (s : State) : (State.record a s).trace = a :: s.trace := rfl
@[simp] theorem State.record_agenda (a : Access) (s : State) : (State.record a s).agenda = s.agenda := rfl
@[simp] theorem State.record_gaps (a : Access) (s : State) : (State.record a s).gaps = s.gaps := rfl

/-! ### `ioWriteAr` -/

@[simp] theorem ioWriteAr_cfg (v : Byte) (s : State) : (ioWriteAr v s).cfg = s.cfg := rfl
@[simp] theorem ioWriteAr_addr7 (v : Byte) (s : State) : (ioWriteAr v s).addr7 = s.addr7 := rfl
@[simp] theorem ioWriteAr_mode (v : Byte) (s : State) : (ioWriteAr v s).mode = s.mode := rfl
@[simp] theorem ioWriteAr_cursor (v : Byte) (s : State) : (ioWriteAr v s).cursor = s.cursor := rfl
@[simp] theorem ioWriteAr_len (v : Byte) (s : State) : (ioWriteAr v s).len = s.len := rfl
@[simp] theorem ioWriteAr_snapshot (v : Byte) (s : State) : (ioWriteAr v s).snapshot = s.snapshot := rfl
@[simp] theorem ioWriteAr_event (v : Byte) (s : State) : (ioWriteAr v s).event = s.event := rfl
@[simp] theorem ioWriteAr_outcome (v : Byte) (s : State) : (ioWriteAr v s).outcome = s.outcome := rfl
@[simp] theorem ioWriteAr_phase (v : Byte) (s : State) : (ioWriteAr v s).phase = s.phase := rfl
@[simp] theorem ioWriteAr_flag (v : Byte) (s : State) : (ioWriteAr v s).flag = s.flag := rfl
@[simp] theorem ioWriteAr_ar (v : Byte) (s : State) : (ioWriteAr v s).ar = v := rfl
@[simp] theorem ioWriteAr_cr (v : Byte) (s : State) : (ioWriteAr v s).cr = s.cr := rfl
@[simp] theorem ioWriteAr_sr (v : Byte) (s : State) : (ioWriteAr v s).sr = s.sr := rfl
@[simp] theorem ioWriteAr_dr (v : Byte) (s : State) : (ioWriteAr v s).dr = s.dr := rfl
@[simp] theorem ioWriteAr_edge (v : Byte) (s : State) : (ioWriteAr v s).edge = s.edge := rfl
@[simp] theorem ioWriteAr_buf (v : Byte) (s : State) : (ioWriteAr v s).buf = s.buf := rfl
@[simp] theorem ioWriteAr_delivered (v : Byte) (s : State) : (ioWriteAr v s).delivered = s.delivered := rfl
@[simp] theorem ioWriteAr_trace (v : Byte) (s : State) : (ioWriteAr v s).trace = .arWrite v :: s.trace := rfl
@[simp] theorem ioWriteAr_agenda (v : Byte) (s : State) : (ioWriteAr v s).agenda = s.agenda := rfl
@[simp] theorem ioWriteAr_gaps (v : Byte) (s : State) : (ioWriteAr v s).gaps = s.gaps := rfl

/-! ### `ioWriteDr` -/

@[simp] theorem ioWriteDr_cfg (v : Byte) (s : State) : (ioWriteDr v s).cfg = s.cfg := rfl
@[simp] theorem ioWriteDr_addr7 (v : Byte) (s : State) : (ioWriteDr v s).addr7 = s.addr7 := rfl
@[simp] theorem ioWriteDr_mode (v : Byte) (s : State) : (ioWriteDr v s).mode = s.mode := rfl
@[simp] theorem ioWriteDr_cursor (v : Byte) (s : State) : (ioWriteDr v s).cursor = s.cursor := rfl
@[simp] theorem ioWriteDr_len (v : Byte) (s : State) : (ioWriteDr v s).len = s.len := rfl
@[simp] theorem ioWriteDr_snapshot (v : Byte) (s : State) : (ioWriteDr v s).snapshot = s.snapshot := rfl
@[simp] theorem ioWriteDr_event (v : Byte) (s : State) : (ioWriteDr v s).event = s.event := rfl
@[simp] theorem ioWriteDr_outcome (v : Byte) (s : State) : (ioWriteDr v s).outcome = s.outcome := rfl
@[simp] theorem ioWriteDr_phase (v : Byte) (s : State) : (ioWriteDr v s).phase = s.phase := rfl
@[simp] theorem ioWriteDr_flag (v : Byte) (s : State) : (ioWriteDr v s).flag = s.flag := rfl
@[simp] theorem ioWriteDr_ar (v : Byte) (s : State) : (ioWriteDr v s).ar = s.ar := rfl
@[simp] theorem ioWriteDr_cr (v : Byte) (s : State) : (ioWriteDr v s).cr = s.cr := rfl
@[simp] theorem ioWriteDr_sr (v : Byte) (s : State) : (ioWriteDr v s).sr = s.sr := rfl
@[simp] theorem ioWriteDr_dr (v : Byte) (s : State) : (ioWriteDr v s).dr = v := rfl
@[simp] theorem ioWriteDr_edge (v : Byte) (s : State) : (ioWriteDr v s).edge = s.edge := rfl
@[simp] theorem ioWriteDr_buf (v : Byte) (s : State) : (ioWriteDr v s).buf = s.buf := rfl
@[simp] theorem ioWriteDr_delivered (v : Byte) (s : State) : (ioWriteDr v s).delivered = s.delivered := rfl
@[simp] theorem ioWriteDr_trace (v : Byte) (s : State) : (ioWriteDr v s).trace = .drWrite v :: s.trace := rfl
@[simp] theorem ioWriteDr_agenda (v : Byte) (s : State) : (ioWriteDr v s).agenda = s.agenda := rfl
@[simp] theorem ioWriteDr_gaps (v : Byte) (s : State) : (ioWriteDr v s).gaps = s.gaps := rfl

/-! ### `ioWriteCr` -/

@[simp] theorem ioWriteCr_cfg (v : Byte) (s : State) : (ioWriteCr v s).cfg = s.cfg := rfl
@[simp] theorem ioWriteCr_addr7 (v : Byte) (s : State) : (ioWriteCr v s).addr7 = s.addr7 := rfl
@[simp] theorem ioWriteCr_mode (v : Byte) (s : State) : (ioWriteCr v s).mode = s.mode := rfl
@[simp] theorem ioWriteCr_cursor (v : Byte) (s : State) : (ioWriteCr v s).cursor = s.cursor := rfl
@[simp] theorem ioWriteCr_len (v : Byte) (s : State) : (ioWriteCr v s).len = s.len := rfl
@[simp] theorem ioWriteCr_snapshot (v : Byte) (s : State) : (ioWriteCr v s).snapshot = s.snapshot := rfl
@[simp] theorem ioWriteCr_event (v : Byte) (s : State) : (ioWriteCr v s).event = s.event := rfl
@[simp] theorem ioWriteCr_outcome (v : Byte) (s : State) : (ioWriteCr v s).outcome = s.outcome := rfl
@[simp] theorem ioWriteCr_phase (v : Byte) (s : State) : (ioWriteCr v s).phase = s.phase := rfl
@[simp] theorem ioWriteCr_flag (v : Byte) (s : State) : (ioWriteCr v s).flag = s.flag := rfl
@[simp] theorem ioWriteCr_ar (v : Byte) (s : State) : (ioWriteCr v s).ar = s.ar := rfl
@[simp] theorem ioWriteCr_cr (v : Byte) (s : State) : (ioWriteCr v s).cr = controlAfterWrite s.cr (s.cfg.control.fields v) := rfl
@[simp] theorem ioWriteCr_sr (v : Byte) (s : State) : (ioWriteCr v s).sr = s.sr := rfl
@[simp] theorem ioWriteCr_dr (v : Byte) (s : State) : (ioWriteCr v s).dr = s.dr := rfl
@[simp] theorem ioWriteCr_edge (v : Byte) (s : State) : (ioWriteCr v s).edge = s.edge := rfl
@[simp] theorem ioWriteCr_buf (v : Byte) (s : State) : (ioWriteCr v s).buf = s.buf := rfl
@[simp] theorem ioWriteCr_delivered (v : Byte) (s : State) : (ioWriteCr v s).delivered = s.delivered := rfl
@[simp] theorem ioWriteCr_trace (v : Byte) (s : State) : (ioWriteCr v s).trace = .crWrite v :: s.trace := rfl
@[simp] theorem ioWriteCr_agenda (v : Byte) (s : State) : (ioWriteCr v s).agenda = s.agenda := rfl
@[simp] theorem ioWriteCr_gaps (v : Byte) (s : State) : (ioWriteCr v s).gaps = s.gaps := rfl

/-! ### `commandArm` -/

@[simp] theorem commandArm_cfg (s : State) : (commandArm s).cfg = s.cfg := rfl
@[simp] theorem commandArm_addr7 (s : State) : (commandArm s).addr7 = s.addr7 := rfl
@[simp] theorem commandArm_mode (s : State) : (commandArm s).mode = s.mode := rfl
@[simp] theorem commandArm_cursor (s : State) : (commandArm s).cursor = s.cursor := rfl
@[simp] theorem commandArm_len (s : State) : (commandArm s).len = s.len := rfl
@[simp] theorem commandArm_snapshot (s : State) : (commandArm s).snapshot = s.snapshot := rfl
@[simp] theorem commandArm_event (s : State) : (commandArm s).event = s.event := rfl
@[simp] theorem commandArm_outcome (s : State) : (commandArm s).outcome = s.outcome := rfl
@[simp] theorem commandArm_phase (s : State) : (commandArm s).phase = s.phase := rfl
@[simp] theorem commandArm_flag (s : State) : (commandArm s).flag = s.flag := rfl
@[simp] theorem commandArm_ar (s : State) : (commandArm s).ar = s.ar := rfl
@[simp] theorem commandArm_cr (s : State) : (commandArm s).cr = controlAfterWrite s.cr (s.cfg.control.fields (cwArmWord s.cfg)) := rfl
@[simp] theorem commandArm_sr (s : State) : (commandArm s).sr = s.sr := rfl
@[simp] theorem commandArm_dr (s : State) : (commandArm s).dr = s.dr := rfl
@[simp] theorem commandArm_edge (s : State) : (commandArm s).edge = s.edge := rfl
@[simp] theorem commandArm_buf (s : State) : (commandArm s).buf = s.buf := rfl
@[simp] theorem commandArm_delivered (s : State) : (commandArm s).delivered = s.delivered := rfl
@[simp] theorem commandArm_trace (s : State) : (commandArm s).trace = .crWrite (cwArmWord s.cfg) :: s.trace := rfl
@[simp] theorem commandArm_agenda (s : State) : (commandArm s).agenda = s.agenda := rfl
@[simp] theorem commandArm_gaps (s : State) : (commandArm s).gaps = s.gaps := rfl

/-! ### `commandNack` -/

@[simp] theorem commandNack_cfg (s : State) : (commandNack s).cfg = s.cfg := rfl
@[simp] theorem commandNack_addr7 (s : State) : (commandNack s).addr7 = s.addr7 := rfl
@[simp] theorem commandNack_mode (s : State) : (commandNack s).mode = s.mode := rfl
@[simp] theorem commandNack_cursor (s : State) : (commandNack s).cursor = s.cursor := rfl
@[simp] theorem commandNack_len (s : State) : (commandNack s).len = s.len := rfl
@[simp] theorem commandNack_snapshot (s : State) : (commandNack s).snapshot = s.snapshot := rfl
@[simp] theorem commandNack_event (s : State) : (commandNack s).event = s.event := rfl
@[simp] theorem commandNack_outcome (s : State) : (commandNack s).outcome = s.outcome := rfl
@[simp] theorem commandNack_phase (s : State) : (commandNack s).phase = s.phase := rfl
@[simp] theorem commandNack_flag (s : State) : (commandNack s).flag = s.flag := rfl
@[simp] theorem commandNack_ar (s : State) : (commandNack s).ar = s.ar := rfl
@[simp] theorem commandNack_cr (s : State) : (commandNack s).cr = controlAfterWrite s.cr (s.cfg.control.fields (cwNackWord s.cfg)) := rfl
@[simp] theorem commandNack_sr (s : State) : (commandNack s).sr = s.sr := rfl
@[simp] theorem commandNack_dr (s : State) : (commandNack s).dr = s.dr := rfl
@[simp] theorem commandNack_edge (s : State) : (commandNack s).edge = s.edge := rfl
@[simp] theorem commandNack_buf (s : State) : (commandNack s).buf = s.buf := rfl
@[simp] theorem commandNack_delivered (s : State) : (commandNack s).delivered = s.delivered := rfl
@[simp] theorem commandNack_trace (s : State) : (commandNack s).trace = .crWrite (cwNackWord s.cfg) :: s.trace := rfl
@[simp] theorem commandNack_agenda (s : State) : (commandNack s).agenda = s.agenda := rfl
@[simp] theorem commandNack_gaps (s : State) : (commandNack s).gaps = s.gaps := rfl

/-! ### `commandDisarm` -/

@[simp] theorem commandDisarm_cfg (s : State) : (commandDisarm s).cfg = s.cfg := rfl
@[simp] theorem commandDisarm_addr7 (s : State) : (commandDisarm s).addr7 = s.addr7 := rfl
@[simp] theorem commandDisarm_mode (s : State) : (commandDisarm s).mode = s.mode := rfl
@[simp] theorem commandDisarm_cursor (s : State) : (commandDisarm s).cursor = s.cursor := rfl
@[simp] theorem commandDisarm_len (s : State) : (commandDisarm s).len = s.len := rfl
@[simp] theorem commandDisarm_snapshot (s : State) : (commandDisarm s).snapshot = s.snapshot := rfl
@[simp] theorem commandDisarm_event (s : State) : (commandDisarm s).event = s.event := rfl
@[simp] theorem commandDisarm_outcome (s : State) : (commandDisarm s).outcome = s.outcome := rfl
@[simp] theorem commandDisarm_phase (s : State) : (commandDisarm s).phase = s.phase := rfl
@[simp] theorem commandDisarm_flag (s : State) : (commandDisarm s).flag = s.flag := rfl
@[simp] theorem commandDisarm_ar (s : State) : (commandDisarm s).ar = s.ar := rfl
@[simp] theorem commandDisarm_cr (s : State) : (commandDisarm s).cr = controlAfterWrite s.cr (s.cfg.control.fields (cwDisarmedWord s.cfg)) := rfl
@[simp] theorem commandDisarm_sr (s : State) : (commandDisarm s).sr = s.sr := rfl
@[simp] theorem commandDisarm_dr (s : State) : (commandDisarm s).dr = s.dr := rfl
@[simp] theorem commandDisarm_edge (s : State) : (commandDisarm s).edge = s.edge := rfl
@[simp] theorem commandDisarm_buf (s : State) : (commandDisarm s).buf = s.buf := rfl
@[simp] theorem commandDisarm_delivered (s : State) : (commandDisarm s).delivered = s.delivered := rfl
@[simp] theorem commandDisarm_trace (s : State) : (commandDisarm s).trace = .crWrite (cwDisarmedWord s.cfg) :: s.trace := rfl
@[simp] theorem commandDisarm_agenda (s : State) : (commandDisarm s).agenda = s.agenda := rfl
@[simp] theorem commandDisarm_gaps (s : State) : (commandDisarm s).gaps = s.gaps := rfl

/-! ### `flagClear` -/

@[simp] theorem flagClear_cfg (s : State) : (flagClear s).cfg = s.cfg := rfl
@[simp] theorem flagClear_addr7 (s : State) : (flagClear s).addr7 = s.addr7 := rfl
@[simp] theorem flagClear_mode (s : State) : (flagClear s).mode = s.mode := rfl
@[simp] theorem flagClear_cursor (s : State) : (flagClear s).cursor = s.cursor := rfl
@[simp] theorem flagClear_len (s : State) : (flagClear s).len = s.len := rfl
@[simp] theorem flagClear_snapshot (s : State) : (flagClear s).snapshot = s.snapshot := rfl
@[simp] theorem flagClear_event (s : State) : (flagClear s).event = s.event := rfl
@[simp] theorem flagClear_outcome (s : State) : (flagClear s).outcome = s.outcome := rfl
@[simp] theorem flagClear_phase (s : State) : (flagClear s).phase = s.phase := rfl
@[simp] theorem flagClear_flag (s : State) : (flagClear s).flag = false := rfl
@[simp] theorem flagClear_ar (s : State) : (flagClear s).ar = s.ar := rfl
@[simp] theorem flagClear_cr (s : State) : (flagClear s).cr = s.cr := rfl
@[simp] theorem flagClear_sr (s : State) : (flagClear s).sr = s.sr := rfl
@[simp] theorem flagClear_dr (s : State) : (flagClear s).dr = s.dr := rfl
@[simp] theorem flagClear_edge (s : State) : (flagClear s).edge = s.edge := rfl
@[simp] theorem flagClear_buf (s : State) : (flagClear s).buf = s.buf := rfl
@[simp] theorem flagClear_delivered (s : State) : (flagClear s).delivered = s.delivered := rfl
@[simp] theorem flagClear_trace (s : State) : (flagClear s).trace = .flagClear :: s.trace := rfl
@[simp] theorem flagClear_agenda (s : State) : (flagClear s).agenda = s.agenda := rfl
@[simp] theorem flagClear_gaps (s : State) : (flagClear s).gaps = s.gaps := rfl

/-! ### `raise` -/

@[simp] theorem raise_cfg (o : CallOutcome) (s : State) : (raise o s).cfg = s.cfg := rfl
@[simp] theorem raise_addr7 (o : CallOutcome) (s : State) : (raise o s).addr7 = s.addr7 := rfl
@[simp] theorem raise_mode (o : CallOutcome) (s : State) : (raise o s).mode = s.mode := rfl
@[simp] theorem raise_cursor (o : CallOutcome) (s : State) : (raise o s).cursor = s.cursor := rfl
@[simp] theorem raise_len (o : CallOutcome) (s : State) : (raise o s).len = s.len := rfl
@[simp] theorem raise_snapshot (o : CallOutcome) (s : State) : (raise o s).snapshot = s.snapshot := rfl
@[simp] theorem raise_event (o : CallOutcome) (s : State) : (raise o s).event = s.event := rfl
@[simp] theorem raise_outcome (o : CallOutcome) (s : State) : (raise o s).outcome = some o := rfl
@[simp] theorem raise_phase (o : CallOutcome) (s : State) : (raise o s).phase = s.phase := rfl
@[simp] theorem raise_flag (o : CallOutcome) (s : State) : (raise o s).flag = s.flag := rfl
@[simp] theorem raise_ar (o : CallOutcome) (s : State) : (raise o s).ar = s.ar := rfl
@[simp] theorem raise_cr (o : CallOutcome) (s : State) : (raise o s).cr = controlAfterWrite s.cr (s.cfg.control.fields (cwDisarmedWord s.cfg)) := rfl
@[simp] theorem raise_sr (o : CallOutcome) (s : State) : (raise o s).sr = s.sr := rfl
@[simp] theorem raise_dr (o : CallOutcome) (s : State) : (raise o s).dr = s.dr := rfl
@[simp] theorem raise_edge (o : CallOutcome) (s : State) : (raise o s).edge = s.edge := rfl
@[simp] theorem raise_buf (o : CallOutcome) (s : State) : (raise o s).buf = s.buf := rfl
@[simp] theorem raise_delivered (o : CallOutcome) (s : State) : (raise o s).delivered = s.delivered := rfl
@[simp] theorem raise_trace (o : CallOutcome) (s : State) : (raise o s).trace = .crWrite (cwDisarmedWord s.cfg) :: s.trace := rfl
@[simp] theorem raise_agenda (o : CallOutcome) (s : State) : (raise o s).agenda = s.agenda := rfl
@[simp] theorem raise_gaps (o : CallOutcome) (s : State) : (raise o s).gaps = s.gaps := rfl

/-! ### `setPrescaler` -/

@[simp] theorem setPrescaler_cfg (v : Byte) (s : State) : (setPrescaler v s).cfg = s.cfg := rfl
@[simp] theorem setPrescaler_addr7 (v : Byte) (s : State) : (setPrescaler v s).addr7 = s.addr7 := rfl
@[simp] theorem setPrescaler_mode (v : Byte) (s : State) : (setPrescaler v s).mode = s.mode := rfl
@[simp] theorem setPrescaler_cursor (v : Byte) (s : State) : (setPrescaler v s).cursor = s.cursor := rfl
@[simp] theorem setPrescaler_len (v : Byte) (s : State) : (setPrescaler v s).len = s.len := rfl
@[simp] theorem setPrescaler_snapshot (v : Byte) (s : State) : (setPrescaler v s).snapshot = s.snapshot := rfl
@[simp] theorem setPrescaler_event (v : Byte) (s : State) : (setPrescaler v s).event = s.event := rfl
@[simp] theorem setPrescaler_outcome (v : Byte) (s : State) : (setPrescaler v s).outcome = s.outcome := rfl
@[simp] theorem setPrescaler_phase (v : Byte) (s : State) : (setPrescaler v s).phase = s.phase := rfl
@[simp] theorem setPrescaler_flag (v : Byte) (s : State) : (setPrescaler v s).flag = s.flag := rfl
@[simp] theorem setPrescaler_ar (v : Byte) (s : State) : (setPrescaler v s).ar = s.ar := rfl
@[simp] theorem setPrescaler_cr (v : Byte) (s : State) : (setPrescaler v s).cr = s.cr := rfl
@[simp] theorem setPrescaler_sr (v : Byte) (s : State) : (setPrescaler v s).sr = (s.sr &&& ~~~s.cfg.prescalerMask) ||| (v &&& s.cfg.prescalerMask) := rfl
@[simp] theorem setPrescaler_dr (v : Byte) (s : State) : (setPrescaler v s).dr = s.dr := rfl
@[simp] theorem setPrescaler_edge (v : Byte) (s : State) : (setPrescaler v s).edge = s.edge := rfl
@[simp] theorem setPrescaler_buf (v : Byte) (s : State) : (setPrescaler v s).buf = s.buf := rfl
@[simp] theorem setPrescaler_delivered (v : Byte) (s : State) : (setPrescaler v s).delivered = s.delivered := rfl
@[simp] theorem setPrescaler_trace (v : Byte) (s : State) : (setPrescaler v s).trace = s.trace := rfl
@[simp] theorem setPrescaler_agenda (v : Byte) (s : State) : (setPrescaler v s).agenda = s.agenda := rfl
@[simp] theorem setPrescaler_gaps (v : Byte) (s : State) : (setPrescaler v s).gaps = s.gaps := rfl

/-! ### Moves of the other agents -/

@[simp] theorem signalStep_cfg (s : State) : (signalStep s).cfg = s.cfg := by unfold signalStep; split <;> rfl
@[simp] theorem signalStep_addr7 (s : State) : (signalStep s).addr7 = s.addr7 := by unfold signalStep; split <;> rfl
@[simp] theorem signalStep_mode (s : State) : (signalStep s).mode = s.mode := by unfold signalStep; split <;> rfl
@[simp] theorem signalStep_cursor (s : State) : (signalStep s).cursor = s.cursor := by unfold signalStep; split <;> rfl
@[simp] theorem signalStep_len (s : State) : (signalStep s).len = s.len := by unfold signalStep; split <;> rfl
@[simp] theorem signalStep_snapshot (s : State) : (signalStep s).snapshot = s.snapshot := by unfold signalStep; split <;> rfl
@[simp] theorem signalStep_event (s : State) : (signalStep s).event = s.event := by unfold signalStep; split <;> rfl
@[simp] theorem signalStep_outcome (s : State) : (signalStep s).outcome = s.outcome := by unfold signalStep; split <;> rfl
@[simp] theorem signalStep_phase (s : State) : (signalStep s).phase = s.phase := by unfold signalStep; split <;> rfl
@[simp] theorem signalStep_ar (s : State) : (signalStep s).ar = s.ar := by unfold signalStep; split <;> rfl
@[simp] theorem signalStep_buf (s : State) : (signalStep s).buf = s.buf := by unfold signalStep; split <;> rfl
@[simp] theorem signalStep_delivered (s : State) : (signalStep s).delivered = s.delivered := by unfold signalStep; split <;> rfl
@[simp] theorem signalStep_agenda (s : State) : (signalStep s).agenda = s.agenda := by unfold signalStep; split <;> rfl
@[simp] theorem signalStep_cr (s : State) : (signalStep s).cr = s.cr := by unfold signalStep; split <;> rfl
@[simp] theorem signalStep_sr (s : State) : (signalStep s).sr = s.sr := by unfold signalStep; split <;> rfl
@[simp] theorem signalStep_dr (s : State) : (signalStep s).dr = s.dr := by unfold signalStep; split <;> rfl
@[simp] theorem signalStep_gaps (s : State) : (signalStep s).gaps = s.gaps := by unfold signalStep; split <;> rfl
@[simp] theorem busEvent_cfg (v : Byte) (d : Option Byte) (s : State) : (busEvent v d s).cfg = s.cfg := by
  unfold busEvent; split <;> rfl
@[simp] theorem busEvent_addr7 (v : Byte) (d : Option Byte) (s : State) : (busEvent v d s).addr7 = s.addr7 := by
  unfold busEvent; split <;> rfl
@[simp] theorem busEvent_mode (v : Byte) (d : Option Byte) (s : State) : (busEvent v d s).mode = s.mode := by
  unfold busEvent; split <;> rfl
@[simp] theorem busEvent_cursor (v : Byte) (d : Option Byte) (s : State) : (busEvent v d s).cursor = s.cursor := by
  unfold busEvent; split <;> rfl
@[simp] theorem busEvent_len (v : Byte) (d : Option Byte) (s : State) : (busEvent v d s).len = s.len := by
  unfold busEvent; split <;> rfl
@[simp] theorem busEvent_snapshot (v : Byte) (d : Option Byte) (s : State) : (busEvent v d s).snapshot = s.snapshot := by
  unfold busEvent; split <;> rfl
@[simp] theorem busEvent_event (v : Byte) (d : Option Byte) (s : State) : (busEvent v d s).event = s.event := by
  unfold busEvent; split <;> rfl
@[simp] theorem busEvent_outcome (v : Byte) (d : Option Byte) (s : State) : (busEvent v d s).outcome = s.outcome := by
  unfold busEvent; split <;> rfl
@[simp] theorem busEvent_phase (v : Byte) (d : Option Byte) (s : State) : (busEvent v d s).phase = s.phase := by
  unfold busEvent; split <;> rfl
@[simp] theorem busEvent_ar (v : Byte) (d : Option Byte) (s : State) : (busEvent v d s).ar = s.ar := by
  unfold busEvent; split <;> rfl
@[simp] theorem busEvent_buf (v : Byte) (d : Option Byte) (s : State) : (busEvent v d s).buf = s.buf := by
  unfold busEvent; split <;> rfl
@[simp] theorem busEvent_delivered (v : Byte) (d : Option Byte) (s : State) : (busEvent v d s).delivered = s.delivered := by
  unfold busEvent; split <;> rfl
@[simp] theorem busEvent_agenda (v : Byte) (d : Option Byte) (s : State) : (busEvent v d s).agenda = s.agenda := by
  unfold busEvent; split <;> rfl
@[simp] theorem busEvent_flag (v : Byte) (d : Option Byte) (s : State) : (busEvent v d s).flag = s.flag := by
  unfold busEvent; split <;> rfl
@[simp] theorem busEvent_gaps (v : Byte) (d : Option Byte) (s : State) : (busEvent v d s).gaps = s.gaps := by
  unfold busEvent; split <;> rfl
@[simp] theorem busEvent_ackEn (v : Byte) (d : Option Byte) (s : State) : (busEvent v d s).cr.ackEn = s.cr.ackEn := by
  unfold busEvent; split <;> rfl
@[simp] theorem busEvent_start (v : Byte) (d : Option Byte) (s : State) : (busEvent v d s).cr.start = s.cr.start := by
  unfold busEvent; split <;> rfl
@[simp] theorem busEvent_stop (v : Byte) (d : Option Byte) (s : State) : (busEvent v d s).cr.stop = s.cr.stop := by
  unfold busEvent; split <;> rfl
@[simp] theorem busEvent_en (v : Byte) (d : Option Byte) (s : State) : (busEvent v d s).cr.en = s.cr.en := by
  unfold busEvent; split <;> rfl
@[simp] theorem busEvent_intEn (v : Byte) (d : Option Byte) (s : State) : (busEvent v d s).cr.intEn = s.cr.intEn := by
  unfold busEvent; split <;> rfl
@[simp] theorem envStep_cfg (e : EnvMove) (s : State) : (envStep e s).cfg = s.cfg := by cases e <;> simp [envStep]
@[simp] theorem envStep_addr7 (e : EnvMove) (s : State) : (envStep e s).addr7 = s.addr7 := by cases e <;> simp [envStep]
@[simp] theorem envStep_mode (e : EnvMove) (s : State) : (envStep e s).mode = s.mode := by cases e <;> simp [envStep]
@[simp] theorem envStep_cursor (e : EnvMove) (s : State) : (envStep e s).cursor = s.cursor := by cases e <;> simp [envStep]
@[simp] theorem envStep_len (e : EnvMove) (s : State) : (envStep e s).len = s.len := by cases e <;> simp [envStep]
@[simp] theorem envStep_snapshot (e : EnvMove) (s : State) : (envStep e s).snapshot = s.snapshot := by cases e <;> simp [envStep]
@[simp] theorem envStep_event (e : EnvMove) (s : State) : (envStep e s).event = s.event := by cases e <;> simp [envStep]
@[simp] theorem envStep_outcome (e : EnvMove) (s : State) : (envStep e s).outcome = s.outcome := by cases e <;> simp [envStep]
@[simp] theorem envStep_phase (e : EnvMove) (s : State) : (envStep e s).phase = s.phase := by cases e <;> simp [envStep]
@[simp] theorem envStep_ar (e : EnvMove) (s : State) : (envStep e s).ar = s.ar := by cases e <;> simp [envStep]
@[simp] theorem envStep_buf (e : EnvMove) (s : State) : (envStep e s).buf = s.buf := by cases e <;> simp [envStep]
@[simp] theorem envStep_delivered (e : EnvMove) (s : State) : (envStep e s).delivered = s.delivered := by cases e <;> simp [envStep]
@[simp] theorem envStep_agenda (e : EnvMove) (s : State) : (envStep e s).agenda = s.agenda := by cases e <;> simp [envStep]
@[simp] theorem envStep_gaps (e : EnvMove) (s : State) : (envStep e s).gaps = s.gaps := by cases e <;> simp [envStep]
@[simp] theorem envStep_ackEn (e : EnvMove) (s : State) : (envStep e s).cr.ackEn = s.cr.ackEn := by cases e <;> simp [envStep]
@[simp] theorem envStep_start (e : EnvMove) (s : State) : (envStep e s).cr.start = s.cr.start := by cases e <;> simp [envStep]
@[simp] theorem envStep_stop (e : EnvMove) (s : State) : (envStep e s).cr.stop = s.cr.stop := by cases e <;> simp [envStep]
@[simp] theorem envStep_en (e : EnvMove) (s : State) : (envStep e s).cr.en = s.cr.en := by cases e <;> simp [envStep]
@[simp] theorem envStep_intEn (e : EnvMove) (s : State) : (envStep e s).cr.intEn = s.cr.intEn := by cases e <;> simp [envStep]
@[simp] theorem envSteps_cfg (es : List EnvMove) (s : State) : (envSteps es s).cfg = s.cfg := by
  induction es generalizing s with
  | nil => rfl
  | cons e es ih => simp [envSteps, ih]
@[simp] theorem envSteps_addr7 (es : List EnvMove) (s : State) : (envSteps es s).addr7 = s.addr7 := by
  induction es generalizing s with
  | nil => rfl
  | cons e es ih => simp [envSteps, ih]
@[simp] theorem envSteps_mode (es : List EnvMove) (s : State) : (envSteps es s).mode = s.mode := by
  induction es generalizing s with
  | nil => rfl
  | cons e es ih => simp [envSteps, ih]
@[simp] theorem envSteps_cursor (es : List EnvMove) (s : State) : (envSteps es s).cursor = s.cursor := by
  induction es generalizing s with
  | nil => rfl
  | cons e es ih => simp [envSteps, ih]
@[simp] theorem envSteps_len (es : List EnvMove) (s : State) : (envSteps es s).len = s.len := by
  induction es generalizing s with
  | nil => rfl
  | cons e es ih => simp [envSteps, ih]
@[simp] theorem envSteps_snapshot (es : List EnvMove) (s : State) : (envSteps es s).snapshot = s.snapshot := by
  induction es generalizing s with
  | nil => rfl
  | cons e es ih => simp [envSteps, ih]
@[simp] theorem envSteps_event (es : List EnvMove) (s : State) : (envSteps es s).event = s.event := by
  induction es generalizing s with
  | nil => rfl
  | cons e es ih => simp [envSteps, ih]
@[simp] theorem envSteps_outcome (es : List EnvMove) (s : State) : (envSteps es s).outcome = s.outcome := by
  induction es generalizing s with
  | nil => rfl
  | cons e es ih => simp [envSteps, ih]
@[simp] theorem envSteps_phase (es : List EnvMove) (s : State) : (envSteps es s).phase = s.phase := by
  induction es generalizing s with
  | nil => rfl
  | cons e es ih => simp [envSteps, ih]
@[simp] theorem envSteps_ar (es : List EnvMove) (s : State) : (envSteps es s).ar = s.ar := by
  induction es generalizing s with
  | nil => rfl
  | cons e es ih => simp [envSteps, ih]
@[simp] theorem envSteps_buf (es : List EnvMove) (s : State) : (envSteps es s).buf = s.buf := by
  induction es generalizing s with
  | nil => rfl
  | cons e es ih => simp [envSteps, ih]
@[simp] theorem envSteps_delivered (es : List EnvMove) (s : State) : (envSteps es s).delivered = s.delivered := by
  induction es generalizing s with
  | nil => rfl
  | cons e es ih => simp [envSteps, ih]
@[simp] theorem envSteps_agenda (es : List EnvMove) (s : State) : (envSteps es s).agenda = s.agenda := by
  induction es generalizing s with
  | nil => rfl
  | cons e es ih => simp [envSteps, ih]
@[simp] theorem envSteps_gaps (es : List EnvMove) (s : State) : (envSteps es s).gaps = s.gaps := by
  induction es generalizing s with
  | nil => rfl
  | cons e es ih => simp [envSteps, ih]
@[simp] theorem envSteps_ackEn (es : List EnvMove) (s : State) : (envSteps es s).cr.ackEn = s.cr.ackEn := by
  induction es generalizing s with
  | nil => rfl
  | cons e es ih => simp [envSteps, ih]
@[simp] theorem envSteps_start (es : List EnvMove) (s : State) : (envSteps es s).cr.start = s.cr.start := by
  induction es generalizing s with
  | nil => rfl
  | cons e es ih => simp [envSteps, ih]
@[simp] theorem envSteps_stop (es : List EnvMove) (s : State) : (envSteps es s).cr.stop = s.cr.stop := by
  induction es generalizing s with
  | nil => rfl
  | cons e es ih => simp [envSteps, ih]
@[simp] theorem envSteps_en (es : List EnvMove) (s : State) : (envSteps es s).cr.en = s.cr.en := by
  induction es generalizing s with
  | nil => rfl
  | cons e es ih => simp [envSteps, ih]
@[simp] theorem envSteps_intEn (es : List EnvMove) (s : State) : (envSteps es s).cr.intEn = s.cr.intEn := by
  induction es generalizing s with
  | nil => rfl
  | cons e es ih => simp [envSteps, ih]
@[simp] theorem gap_cfg (s : State) : (gap s).cfg = s.cfg := by unfold gap; split <;> simp
@[simp] theorem gap_addr7 (s : State) : (gap s).addr7 = s.addr7 := by unfold gap; split <;> simp
@[simp] theorem gap_mode (s : State) : (gap s).mode = s.mode := by unfold gap; split <;> simp
@[simp] theorem gap_cursor (s : State) : (gap s).cursor = s.cursor := by unfold gap; split <;> simp
@[simp] theorem gap_len (s : State) : (gap s).len = s.len := by unfold gap; split <;> simp
@[simp] theorem gap_snapshot (s : State) : (gap s).snapshot = s.snapshot := by unfold gap; split <;> simp
@[simp] theorem gap_event (s : State) : (gap s).event = s.event := by unfold gap; split <;> simp
@[simp] theorem gap_outcome (s : State) : (gap s).outcome = s.outcome := by unfold gap; split <;> simp
@[simp] theorem gap_phase (s : State) : (gap s).phase = s.phase := by unfold gap; split <;> simp
@[simp] theorem gap_ar (s : State) : (gap s).ar = s.ar := by unfold gap; split <;> simp
@[simp] theorem gap_buf (s : State) : (gap s).buf = s.buf := by unfold gap; split <;> simp
@[simp] theorem gap_delivered (s : State) : (gap s).delivered = s.delivered := by unfold gap; split <;> simp
@[simp] theorem gap_agenda (s : State) : (gap s).agenda = s.agenda := by unfold gap; split <;> simp
@[simp] theorem gap_ackEn (s : State) : (gap s).cr.ackEn = s.cr.ackEn := by unfold gap; split <;> simp
@[simp] theorem gap_start (s : State) : (gap s).cr.start = s.cr.start := by unfold gap; split <;> simp
@[simp] theorem gap_stop (s : State) : (gap s).cr.stop = s.cr.stop := by unfold gap; split <;> simp
@[simp] theorem gap_en (s : State) : (gap s).cr.en = s.cr.en := by unfold gap; split <;> simp
@[simp] theorem gap_intEn (s : State) : (gap s).cr.intEn = s.cr.intEn := by unfold gap; split <;> simp

/-- With no move left for the gap, nothing happens in it. -/
@[simp] theorem gap_of_gaps_nil {s : State} (h : s.gaps = []) : gap s = s := by simp [gap, h]

end Sys2Proof.Machine
end

