-- ==== Sys2Proof/Laws/Control.lean ====
section
/-! SUPPORT. The control state after each command word of a legal configuration (R76, V3), and the predicates of R33 on
it. -/

namespace Sys2Proof.Machine

theorem fields_arm {p : Params} (h : p.wf = true) : p.control.fields (cwArmWord p) =
    { int := true, ackEn := true, start := false, stop := false, en := true, intEn := true } :=
  ControlLayout.fields_word (Params.control_wf h) _

theorem fields_nack {p : Params} (h : p.wf = true) : p.control.fields (cwNackWord p) =
    { int := true, ackEn := false, start := false, stop := false, en := true, intEn := true } :=
  ControlLayout.fields_word (Params.control_wf h) _

theorem fields_disarmed {p : Params} (h : p.wf = true) : p.control.fields (cwDisarmedWord p) =
    { int := false, ackEn := false, start := false, stop := false, en := false, intEn := false } :=
  ControlLayout.fields_word (Params.control_wf h) _

theorem after_arm {p : Params} (h : p.wf = true) (c : Control) :
    controlAfterWrite c (p.control.fields (cwArmWord p)) = rearmed := by
  simp [fields_arm h, controlAfterWrite, rearmed]

theorem after_nack {p : Params} (h : p.wf = true) (c : Control) :
    controlAfterWrite c (p.control.fields (cwNackWord p)) = nacked := by
  simp [fields_nack h, controlAfterWrite, nacked]

theorem after_disarm {p : Params} (h : p.wf = true) (c : Control) :
    controlAfterWrite c (p.control.fields (cwDisarmedWord p)) = disarmed c.int := by
  simp [fields_disarmed h, controlAfterWrite, disarmed]

@[simp] theorem isDisarmed_disarmed (b : Bool) : isDisarmed (disarmed b) = true := by cases b <;> rfl

/-- The state after the re-arm, in full. -/
theorem commandArm_eq {s : State} (h : s.cfg.wf = true) :
    commandArm s = { s with cr := rearmed, trace := .crWrite (cwArmWord s.cfg) :: s.trace } := by
  simp [commandArm, ioWriteCr, State.record, after_arm h]

/-- The state after NACK-next, in full. -/
theorem commandNack_eq {s : State} (h : s.cfg.wf = true) :
    commandNack s = { s with cr := nacked, trace := .crWrite (cwNackWord s.cfg) :: s.trace } := by
  simp [commandNack, ioWriteCr, State.record, after_nack h]

/-- The state after the disarm, in full. -/
theorem commandDisarm_eq {s : State} (h : s.cfg.wf = true) :
    commandDisarm s = { s with cr := disarmed s.cr.int, trace := .crWrite (cwDisarmedWord s.cfg) :: s.trace } := by
  simp [commandDisarm, ioWriteCr, State.record, after_disarm h]

/-- The state after a terminal row's last two actions, in full (R203). -/
theorem raise_eq {s : State} (o : CallOutcome) (h : s.cfg.wf = true) :
    raise o s = { s with
      cr := disarmed s.cr.int
      outcome := some o
      trace := .crWrite (cwDisarmedWord s.cfg) :: s.trace } := by
  simp [raise, commandDisarm_eq h]

end Sys2Proof.Machine
end

