-- ==== Sys2Proof/Laws/Env.lean ====
section
/-! SUPPORT. What the other agents can do between two accesses (R134): they record only steps of their own, they set the
flag only through `signal()`, they change `DR` and `CR.INT` only while no event is pending, and a disarmed controller
gives them no step. -/

namespace Sys2Proof.Machine

/-! ### The record of accesses -/

/-- An agent beside the polling context adds steps of its own to the record, and the flag rises only with a `signal()`
among them. -/
structure EnvRecord (s t : State) : Prop where
  trace : ∃ new, t.trace = new ++ s.trace ∧ (∀ a ∈ new, a.isOwn = false) ∧
    (s.flag = false → t.flag = true → Access.signal ∈ new)
  flag : s.flag = true → t.flag = true

theorem EnvRecord.refl (s : State) : EnvRecord s s :=
  ⟨⟨[], by simp, by simp, by simp_all⟩, id⟩

theorem EnvRecord.trans {s t u : State} (h : EnvRecord s t) (k : EnvRecord t u) : EnvRecord s u := by
  obtain ⟨⟨n, hn, hno, hs⟩, hf⟩ := h
  obtain ⟨⟨m, hm, hmo, ks⟩, kf⟩ := k
  refine ⟨⟨m ++ n, by rw [hm, hn, List.append_assoc], ?_, ?_⟩, fun h => kf (hf h)⟩
  · intro a ha
    rcases List.mem_append.1 ha with ha | ha
    · exact hmo a ha
    · exact hno a ha
  · intro h1 h2
    cases ht : t.flag with
    | false => exact List.mem_append_left _ (ks ht h2)
    | true => exact List.mem_append_right _ (hs h1 ht)

theorem signalStep_record (s : State) : EnvRecord s (signalStep s) := by
  unfold signalStep
  split
  · exact ⟨⟨[.signal], rfl, by simp [Access.isOwn], by simp⟩, fun _ => rfl⟩
  · exact EnvRecord.refl s

theorem busEvent_record (v : Byte) (d : Option Byte) (s : State) : EnvRecord s (busEvent v d s) := by
  unfold busEvent
  split
  · exact ⟨⟨[.busEvent v d], rfl, by simp [Access.isOwn], by simp_all⟩, id⟩
  · exact EnvRecord.refl s

theorem envStep_record (e : EnvMove) (s : State) : EnvRecord s (envStep e s) := by
  cases e with
  | signal => exact signalStep_record s
  | bus v d => exact busEvent_record v d s
  | prescaler v => exact ⟨⟨[], by simp [envStep], by simp, by simp_all [envStep]⟩, by simp [envStep]⟩

theorem envSteps_record (es : List EnvMove) (s : State) : EnvRecord s (envSteps es s) := by
  induction es generalizing s with
  | nil => exact EnvRecord.refl s
  | cons e es ih => exact (envStep_record e s).trans (ih _)

theorem gap_record (s : State) : EnvRecord s (gap s) := by
  unfold gap
  split
  · exact EnvRecord.refl s
  · next g rest _ =>
    have := envSteps_record g { s with gaps := rest }
    exact ⟨this.trace, this.flag⟩

theorem EnvRecord.ownTrace {s t : State} (h : EnvRecord s t) : ownTrace t = ownTrace s := by
  obtain ⟨n, hn, hno, -⟩ := h.trace
  simp only [Machine.ownTrace, hn, List.filter_append]
  rw [List.filter_eq_nil_iff.2 (by intro a ha; simp [hno a ha])]
  rfl

@[simp] theorem ownTrace_gap (s : State) : ownTrace (gap s) = ownTrace s := (gap_record s).ownTrace

theorem ownTrace_eq_of_trace {s t : State} {a : Access} (h : t.trace = a :: s.trace) (ha : a.isOwn = true) :
    ownTrace t = a :: ownTrace s := by
  simp [ownTrace, h, ha]

@[simp] theorem ownTrace_ioWriteAr (v : Byte) (s : State) : ownTrace (ioWriteAr v s) = .arWrite v :: ownTrace s := rfl
@[simp] theorem ownTrace_ioWriteDr (v : Byte) (s : State) : ownTrace (ioWriteDr v s) = .drWrite v :: ownTrace s := rfl
@[simp] theorem ownTrace_commandArm (s : State) :
    ownTrace (commandArm s) = .crWrite (cwArmWord s.cfg) :: ownTrace s := rfl
@[simp] theorem ownTrace_commandNack (s : State) :
    ownTrace (commandNack s) = .crWrite (cwNackWord s.cfg) :: ownTrace s := rfl
@[simp] theorem ownTrace_commandDisarm (s : State) :
    ownTrace (commandDisarm s) = .crWrite (cwDisarmedWord s.cfg) :: ownTrace s := rfl
@[simp] theorem ownTrace_raise (o : CallOutcome) (s : State) :
    ownTrace (raise o s) = .crWrite (cwDisarmedWord s.cfg) :: ownTrace s := rfl

/-! ### The status and the record (R222) -/

/-- Only the status field says whether a byte is a data status. -/
theorem isDataStatus_congr {p : Params} {v w : Byte} (h : snapshotOf p v = snapshotOf p w) :
    isDataStatus p v = isDataStatus p w := by
  unfold isDataStatus; rw [h]

@[simp] theorem isDataStatus_busEvent (p : Params) (v w : Byte) :
    isDataStatus p ((v &&& ~~~p.prescalerMask) ||| (w &&& p.prescalerMask)) = isDataStatus p v :=
  isDataStatus_congr (snapshotOf_or_mask p v w)

/-- An event in the record stays there. -/
theorem any_append_right {α : Type} {f : α → Bool} {xs ys : List α} (h : ys.any f = true) : (xs ++ ys).any f = true := by
  simp [h]

/-! ### A pending event holds the data register -/

theorem signalStep_int_dr (s : State) : (signalStep s).cr = s.cr ∧ (signalStep s).dr = s.dr := by simp

theorem envStep_pending {s : State} (e : EnvMove) (h : s.cr.int = true) :
    (envStep e s).cr.int = true ∧ (envStep e s).dr = s.dr := by
  cases e with
  | signal => simp [envStep, h]
  | bus v d => simp [envStep, busEvent, busEnabled, h]
  | prescaler v => simp [envStep, h]

theorem envSteps_pending {s : State} (es : List EnvMove) (h : s.cr.int = true) :
    (envSteps es s).cr.int = true ∧ (envSteps es s).dr = s.dr := by
  induction es generalizing s with
  | nil => exact ⟨h, rfl⟩
  | cons e es ih =>
    obtain ⟨h1, h2⟩ := envStep_pending e h
    obtain ⟨h3, h4⟩ := ih h1
    exact ⟨h3, h4.trans h2⟩

/-- R57, R65: while `INT = 1` nobody beside the block changes `DR`, and `INT` stays 1. -/
theorem gap_pending {s : State} (h : s.cr.int = true) : (gap s).cr.int = true ∧ (gap s).dr = s.dr := by
  unfold gap
  split
  · exact ⟨h, rfl⟩
  · exact envSteps_pending _ (s := { s with gaps := _ }) h

/-! ### The pulse latch and the disarmed controller -/

theorem envStep_level {s : State} (e : EnvMove) (h : s.cfg.irqKind = .level) : (envStep e s).edge = s.edge := by
  cases e with
  | signal => unfold envStep signalStep; dsimp only; split <;> simp [h]
  | bus v d => unfold envStep busEvent; dsimp only; split <;> simp [h]
  | prescaler v => rfl

theorem envSteps_level {s : State} (es : List EnvMove) (h : s.cfg.irqKind = .level) :
    (envSteps es s).edge = s.edge := by
  induction es generalizing s with
  | nil => rfl
  | cons e es ih => exact (ih (by simpa using h)).trans (envStep_level e h)

/-- The level kind never latches a pulse (D9). -/
theorem gap_level {s : State} (h : s.cfg.irqKind = .level) : (gap s).edge = s.edge := by
  unfold gap
  split
  · rfl
  · exact envSteps_level _ (s := { s with gaps := _ }) h

theorem envStep_disarmed {s : State} (e : EnvMove) (h : s.cr.en = false) (h' : s.cr.intEn = false) :
    (envStep e s).cr = s.cr ∧ (envStep e s).flag = s.flag ∧ (envStep e s).dr = s.dr ∧
      (envStep e s).trace = s.trace := by
  cases e with
  | signal => simp [envStep, signalStep, irq, h']
  | bus v d => simp [envStep, busEvent, busEnabled, h]
  | prescaler v => simp [envStep]

end Sys2Proof.Machine
end

