-- ==== Sys2Proof/Laws/Memory.lean ====
section
/-! SUPPORT. The laws of the buffer: every operation keeps the canonical form; a read after a write; the caller's bytes
are what the buffer reads as. -/

namespace Sys2Proof.Machine

theorem Memory.wfFrom_mono {m : Memory} {lo hi : Nat} (h : lo ≤ hi) (hm : Memory.wfFrom hi m = true) :
    Memory.wfFrom lo m = true := by
  cases m with
  | nil => rfl
  | cons x rest =>
    simp only [Memory.wfFrom, Bool.and_eq_true, decide_eq_true_eq] at hm ⊢
    exact ⟨⟨by omega, hm.1.2⟩, hm.2⟩

theorem Memory.entry_wfFrom {m : Memory} {i lo : Nat} {v : Byte} (hi : lo ≤ i)
    (hm : Memory.wfFrom (i + 1) m = true) : Memory.wfFrom lo (Memory.entry i v m) = true := by
  unfold Memory.entry
  split
  · exact Memory.wfFrom_mono (by omega) hm
  · next hv => simp [Memory.wfFrom, hi, hv, hm]

/-- A write keeps the canonical form. -/
theorem Memory.write_wfFrom {m : Memory} {i lo : Nat} {v : Byte} (hi : lo ≤ i)
    (hm : Memory.wfFrom lo m = true) : Memory.wfFrom lo (Memory.write m i v) = true := by
  induction m generalizing lo with
  | nil => exact Memory.entry_wfFrom hi rfl
  | cons x rest ih =>
    obtain ⟨a, w⟩ := x
    have hm' := hm
    simp only [Memory.wfFrom, Bool.and_eq_true, decide_eq_true_eq] at hm'
    obtain ⟨⟨ha, hw⟩, hr⟩ := hm'
    unfold Memory.write
    split
    · exact Memory.entry_wfFrom hi (by simp [Memory.wfFrom, hr]; exact ⟨by omega, by simpa using hw⟩)
    · split
      · next h => exact Memory.entry_wfFrom hi (by rw [h]; exact hr)
      · simp only [Memory.wfFrom, Bool.and_eq_true, decide_eq_true_eq]
        exact ⟨⟨ha, hw⟩, ih (by omega) hr⟩

/-- A write keeps the canonical form. -/
theorem Memory.write_wf {m : Memory} {i : Nat} {v : Byte} (hm : m.wf = true) : (m.write i v).wf = true :=
  Memory.write_wfFrom (Nat.zero_le i) hm

theorem Memory.read_of_wfFrom {m : Memory} {lo j : Nat} (hm : Memory.wfFrom lo m = true) (h : j < lo) :
    m.read j = Memory.unlisted := by
  induction m generalizing lo with
  | nil => rfl
  | cons x rest ih =>
    obtain ⟨a, w⟩ := x
    simp only [Memory.wfFrom, Bool.and_eq_true, decide_eq_true_eq] at hm
    have : j ≠ a := by omega
    simp [Memory.read, this, ih hm.2 (by omega)]

theorem Memory.read_entry {m : Memory} {i j : Nat} {v : Byte} (hm : Memory.wfFrom (i + 1) m = true) :
    (Memory.entry i v m).read j = if j = i then v else m.read j := by
  unfold Memory.entry
  split
  · next hv =>
    split
    · next h => rw [hv, h, Memory.read_of_wfFrom hm (by omega)]
    · rfl
  · rfl

theorem Memory.read_write_from {m : Memory} {lo i j : Nat} {v : Byte} (hm : Memory.wfFrom lo m = true) :
    (m.write i v).read j = if j = i then v else m.read j := by
  induction m generalizing lo with
  | nil => exact Memory.read_entry rfl
  | cons x rest ih =>
    obtain ⟨a, w⟩ := x
    have hm' := hm
    simp only [Memory.wfFrom, Bool.and_eq_true, decide_eq_true_eq] at hm'
    obtain ⟨⟨ha, hw⟩, hr⟩ := hm'
    unfold Memory.write
    split
    · next h =>
      exact Memory.read_entry (by
        simp only [Memory.wfFrom, Bool.and_eq_true, decide_eq_true_eq]; exact ⟨⟨by omega, hw⟩, hr⟩)
    · split
      · next h1 h =>
        rw [Memory.read_entry (by rw [h]; exact hr)]
        split
        · rfl
        · next h2 => simp [Memory.read, show j ≠ a by omega]
      · next h1 h2 =>
        simp only [Memory.read, ih hr]
        split
        · next h => simp [show j ≠ i by omega]
        · rfl

/-- A read after a write gives the byte written, and every other index reads as before. -/
theorem Memory.read_write {m : Memory} {i j : Nat} {v : Byte} (hm : m.wf = true) :
    (m.write i v).read j = if j = i then v else m.read j :=
  Memory.read_write_from hm

theorem Memory.entry_below {m : Memory} {n i : Nat} {v : Byte} (hi : i < n) (hm : m.below n = true) :
    (Memory.entry i v m).below n = true := by
  unfold Memory.entry; split <;> simp [Memory.below, hi, hm]

/-- A write below `n` lists nothing at `n` or beyond. -/
theorem Memory.write_below {m : Memory} {n i : Nat} {v : Byte} (hi : i < n) (hm : m.below n = true) :
    (m.write i v).below n = true := by
  induction m with
  | nil => exact Memory.entry_below hi rfl
  | cons x rest ih =>
    obtain ⟨a, w⟩ := x
    have hm' := hm
    simp only [Memory.below, Bool.and_eq_true, decide_eq_true_eq] at hm'
    unfold Memory.write
    split
    · exact Memory.entry_below hi hm
    · split
      · exact Memory.entry_below hi hm'.2
      · simp only [Memory.below, Bool.and_eq_true, decide_eq_true_eq]
        exact ⟨hm'.1, ih hm'.2⟩

theorem Memory.ofBytesFrom_wfFrom (i : Nat) (bytes : List Byte) :
    Memory.wfFrom i (Memory.ofBytesFrom i bytes) = true := by
  induction bytes generalizing i with
  | nil => rfl
  | cons v rest ih => exact Memory.entry_wfFrom (Nat.le_refl i) (ih (i + 1))

/-- A caller's buffer is in canonical form. -/
theorem Memory.ofBytes_wf (bytes : List Byte) : (Memory.ofBytes bytes).wf = true :=
  Memory.ofBytesFrom_wfFrom 0 bytes

theorem Memory.ofBytesFrom_below (i : Nat) (bytes : List Byte) :
    (Memory.ofBytesFrom i bytes).below (i + bytes.length) = true := by
  induction bytes generalizing i with
  | nil => rfl
  | cons v rest ih =>
    refine Memory.entry_below (by simp) ?_
    have := ih (i + 1)
    rwa [show i + 1 + rest.length = i + (v :: rest).length by simp; omega] at this

/-- A caller's buffer lists nothing at its length or beyond. -/
theorem Memory.ofBytes_below (bytes : List Byte) : (Memory.ofBytes bytes).below bytes.length = true := by
  have := Memory.ofBytesFrom_below 0 bytes
  rwa [Nat.zero_add] at this

theorem Memory.read_ofBytesFrom (i k : Nat) (bytes : List Byte) (h : k < bytes.length) :
    (Memory.ofBytesFrom i bytes).read (i + k) = bytes[k] := by
  induction bytes generalizing i k with
  | nil => simp at h
  | cons v rest ih =>
    simp only [Memory.ofBytesFrom]
    rw [Memory.read_entry (Memory.ofBytesFrom_wfFrom (i + 1) rest)]
    cases k with
    | zero => simp
    | succ k =>
      simp only [show ¬ i + (k + 1) = i by omega, if_false, List.getElem_cons_succ]
      have := ih (i + 1) k (by simpa using h)
      rwa [show i + 1 + k = i + (k + 1) by omega] at this

/-- A caller's buffer reads as the caller's bytes. -/
theorem Memory.toBytes_ofBytes (bytes : List Byte) : (Memory.ofBytes bytes).toBytes bytes.length = bytes := by
  apply List.ext_getElem
  · simp [Memory.toBytes]
  · intro k h1 h2
    have := Memory.read_ofBytesFrom 0 k bytes h2
    simpa [Memory.toBytes, Memory.ofBytes] using this

end Sys2Proof.Machine
end

