-- ==== Sys2Proof/Laws/Ops.lean ====
section
/-! SUPPORT. One lemma for each shared operation that several rows use: everything it can do, in every state. -/

namespace Sys2Proof.Machine

theorem RowFrame.refl (s : State) : RowFrame s s := ⟨rfl, rfl, rfl, rfl, rfl, rfl, rfl, rfl, rfl, rfl⟩

theorem EnvFrame.refl (s : State) : EnvFrame s s := ⟨rfl, rfl, rfl, rfl⟩

/-! ### Reading operands -/

theorem readCursor_some {s : State} {c : Nat} (h : s.cursor = some c) (k : Nat → Result) : readCursor s k = k c := by
  simp [readCursor, h]

theorem readLen_some {s : State} {l : Nat} (h : s.len = some l) (k : Nat → Result) : readLen s k = k l := by
  simp [readLen, h]

theorem readSnapshot_some {s : State} {v : Byte} (h : s.snapshot = some v) (k : Byte → Result) :
    readSnapshot s k = k v := by
  simp [readSnapshot, h]

theorem memRead_next {i l : Nat} {s : State} (h : s.len = some l) (hi : i < l) (k : Byte → State → Result) :
    memRead i s k = k (s.buf.read i) (s.record (.bufRead i (s.buf.read i))) := by
  simp [memRead, readLen, h, hi]

theorem memWrite_next {i l : Nat} {v : Byte} {s : State} (h : s.len = some l) (hi : i < l) (k : State → Result) :
    memWrite i v s k = k (State.record (.bufWrite i v) { s with buf := s.buf.write i v }) := by
  simp [memWrite, readLen, h, hi]

theorem andThen_next {r : Result} {f : State → Result} {t : State} :
    andThen r f = .next t ↔ ∃ u, r = .next u ∧ f u = .next t := by
  cases r <;> simp [andThen]

theorem andThen_fault {r : Result} {f : State → Result} {e : Fault} :
    andThen r f = .fault e ↔ r = .fault e ∨ ∃ u, r = .next u ∧ f u = .fault e := by
  cases r <;> simp [andThen]

/-! ### The shared actions of the rows -/

/-- R152, R154, R174. -/
theorem nackThenRaise_frame (o : CallOutcome) (s : State) :
    RowFrame s (nackThenRaise o s) ∧ (nackThenRaise o s).cursor = s.cursor ∧ (nackThenRaise o s).buf = s.buf ∧
      (nackThenRaise o s).outcome = some o ∧
      ownTrace (nackThenRaise o s) =
        .crWrite (cwDisarmedWord s.cfg) :: .crWrite (cwNackWord s.cfg) :: ownTrace s := by
  refine ⟨⟨?_, ?_, ?_, ?_, ?_, ?_, ?_, ?_, ?_, ?_⟩, ?_, ?_, ?_, ?_⟩ <;> simp [nackThenRaise]

theorem nackThenRaise_disarmed (o : CallOutcome) {s : State} (h : s.cfg.wf = true) :
    isDisarmed (nackThenRaise o s).cr = true := by
  rw [nackThenRaise, raise_eq o (by simpa using h)]
  exact isDisarmed_disarmed _

/-- R160, R176. -/
theorem unknownState_next {s : State} {v : Byte} (h : s.snapshot = some v) :
    unknownState s = .next (raise (.err (.unknownState v)) s) := by
  simp [unknownState, readSnapshot, h]

/-- R172, R173. -/
theorem succeedWithCount_next {s : State} {c : Nat} (h : s.cursor = some c) :
    succeedWithCount s = .next (raise (.okRespond c) s) := by
  simp [succeedWithCount, readCursor, h]

/-- R155, the full buffer. -/
theorem storeByte_full {s : State} {c : Nat} (hc : s.cursor = some c) (hl : s.len = some c) :
    storeByte s = .next (raise (.err .bufferOverflow) s) := by
  simp [storeByte, readCursor, readLen, hc, hl]

/-- R155, the stored byte. -/
def stored (c : Nat) (s : State) : State :=
  let u := gap (State.record (.drRead s.dr) s)
  commandArm (gap (State.record (.bufWrite c s.dr) { u with buf := u.buf.write c s.dr, cursor := some (c + 1) }))

theorem storeByte_room {s : State} {c l : Nat} (hc : s.cursor = some c) (hl : s.len = some l) (h : c < l) :
    storeByte s = .next (stored c s) := by
  have hne : c ≠ l := by omega
  simp only [storeByte, readCursor_some hc, readLen_some hl, hne, if_false, ioReadDr]
  rw [memWrite_next (l := l) (by simpa using hl) h]
  rfl

theorem stored_frame (c : Nat) (s : State) :
    RowFrame s (stored c s) ∧ (stored c s).cursor = some (c + 1) ∧ (stored c s).outcome = s.outcome ∧
      (stored c s).buf = s.buf.write c s.dr ∧
      ownTrace (stored c s) =
        .crWrite (cwArmWord s.cfg) :: .bufWrite c s.dr :: .drRead s.dr :: ownTrace s := by
  refine ⟨⟨?_, ?_, ?_, ?_, ?_, ?_, ?_, ?_, ?_, ?_⟩, ?_, ?_, ?_, ?_⟩ <;> simp [stored]
  · rw [ownTrace_eq_of_trace (s := gap (State.record (.drRead s.dr) s)) (a := .bufWrite c s.dr) rfl rfl,
      ownTrace_gap, ownTrace_eq_of_trace (s := s) (a := .drRead s.dr) rfl rfl]

theorem stored_cr (c : Nat) {s : State} (h : s.cfg.wf = true) : (stored c s).cr = rearmed := by
  unfold stored
  rw [commandArm_eq (by simpa using h)]

/-- R170, R171, the loaded byte. -/
def loaded (c : Nat) (s : State) : State :=
  commandArm (gap { ioWriteDr (s.buf.read c) (gap (State.record (.bufRead c (s.buf.read c)) s)) with
    cursor := some (c + 1) })

theorem loadByte_next {s : State} {c l : Nat} (hl : s.len = some l) (h : c < l) :
    loadByte c s = .next (loaded c s) := by
  rw [loadByte, memRead_next hl h]
  rfl

theorem loaded_frame (c : Nat) (s : State) :
    RowFrame s (loaded c s) ∧ (loaded c s).cursor = some (c + 1) ∧ (loaded c s).outcome = s.outcome ∧
      (loaded c s).buf = s.buf ∧
      ownTrace (loaded c s) = .crWrite (cwArmWord s.cfg) :: .drWrite (s.buf.read c) ::
        .bufRead c (s.buf.read c) :: ownTrace s := by
  refine ⟨⟨?_, ?_, ?_, ?_, ?_, ?_, ?_, ?_, ?_, ?_⟩, ?_, ?_, ?_, ?_⟩ <;> simp [loaded]
  · rw [ownTrace_eq_of_trace (s := gap (State.record (.bufRead c (s.buf.read c)) s))
        (a := .drWrite (s.buf.read c)) rfl rfl,
      ownTrace_gap, ownTrace_eq_of_trace (s := s) (a := .bufRead c (s.buf.read c)) rfl rfl]

theorem loaded_cr (c : Nat) {s : State} (h : s.cfg.wf = true) : (loaded c s).cr = rearmed := by
  unfold loaded
  rw [commandArm_eq (by simpa using h)]

/-- R170, R171, the exhausted buffer. -/
theorem padByteNack_frame (s : State) :
    RowFrame s (padByteNack s) ∧ (padByteNack s).cursor = s.cursor ∧ (padByteNack s).outcome = s.outcome ∧
      (padByteNack s).buf = s.buf ∧
      ownTrace (padByteNack s) = .crWrite (cwNackWord s.cfg) :: .drWrite padByte :: ownTrace s := by
  refine ⟨⟨?_, ?_, ?_, ?_, ?_, ?_, ?_, ?_, ?_, ?_⟩, ?_, ?_, ?_, ?_⟩ <;> simp [padByteNack]

theorem padByteNack_cr {s : State} (h : s.cfg.wf = true) : (padByteNack s).cr = nacked := by
  unfold padByteNack
  rw [commandNack_eq (by simpa using h)]

/-! ### Calls -/

/-- R130, R131: what a call's start can answer. -/
theorem startCall_next {m : Mode} {b : List Byte} {s t : State} (h : startCall m b s = .next t) :
    s.phase = .idle ∧ b.length ≤ s.cfg.maxLen ∧
      t = { s with mode := some m, buf := .ofBytes b, len := some b.length, cursor := some 0, outcome := none, phase := .wait } := by
  unfold startCall at h
  split at h
  · next h1 =>
    split at h
    · next h2 => exact ⟨h1, h2, by simpa using h.symm⟩
    · simp at h
  · simp at h

/-- R136: what the return can answer. -/
theorem returnToCaller_next {s t : State} (h : returnToCaller s = .next t) :
    ∃ o l, s.outcome = some o ∧ s.len = some l ∧
      t = { s with
        delivered := { outcome := o, buf := s.buf, len := l } :: s.delivered
        mode := none, cursor := none, len := none, snapshot := none, event := none, phase := .idle } := by
  unfold returnToCaller readOutcome readLen at h
  split at h
  · next o ho =>
    split at h
    · next l hl => exact ⟨o, l, ho, hl, by simpa using h.symm⟩
    · simp at h
  · simp at h

end Sys2Proof.Machine
end

