-- ==== Sys2Proof/Laws/PerInstr.lean ====
section
/-! SUPPORT. The family `EncodeFormat`, one lemma per constructor: an instruction that has a word has one of one byte, in
its own format (30_encoding.md R70, R76, R77, R81); the operations have none (R79). -/

namespace Sys2Proof

/-- The format of an instruction's word; none for the operations (R79). -/
def Instr.format : Instr → Option Format
  | .rxSrSlaAck => some (.status .receive)
  | .rxSrArbSlaAck => some (.status .receive)
  | .rxSrGcallAck => some (.status .receive)
  | .rxSrArbGcallAck => some (.status .receive)
  | .rxSrDataAck => some (.status .receive)
  | .rxSrDataFinal => some (.status .receive)
  | .rxSrGcallDataAck => some (.status .receive)
  | .rxSrStop => some (.status .receive)
  | .rxStSlaAck => some (.status .receive)
  | .rxStArbSlaAck => some (.status .receive)
  | .rxStDataAck => some (.status .receive)
  | .rxStDataNack => some (.status .receive)
  | .rxStLastData => some (.status .receive)
  | .rxUnrecognized _ => some (.status .receive)
  | .txSrSlaAck => some (.status .respond)
  | .txSrArbSlaAck => some (.status .respond)
  | .txSrGcallAck => some (.status .respond)
  | .txSrArbGcallAck => some (.status .respond)
  | .txSrDataAck => some (.status .respond)
  | .txSrDataFinal => some (.status .respond)
  | .txSrGcallDataAck => some (.status .respond)
  | .txSrStop => some (.status .respond)
  | .txStSlaAck => some (.status .respond)
  | .txStArbSlaAck => some (.status .respond)
  | .txStDataAck => some (.status .respond)
  | .txStDataNack => some (.status .respond)
  | .txStLastData => some (.status .respond)
  | .txUnrecognized _ => some (.status .respond)
  | .cwArm => some .control
  | .cwNack => some .control
  | .cwDisarmed => some .control
  | .arWord _ _ => some .address
  | .configure _ => none
  | .arm => none
  | .disarmAndReset => none
  | .signal => none
  | .takeObserve => none
  | .takeClear => none
  | .receive _ => none
  | .respond _ => none

theorem encodeRow_format {p : Params} {m : Mode} {e : Event} {f : Format} {w : List Byte}
    (h : encodeRow p m e = some (f, w)) : some (.status m) = some f ∧ w.length = 1 := by
  simp only [encodeRow, Option.map_eq_some_iff] at h
  obtain ⟨c, -, h⟩ := h
  cases h
  exact ⟨rfl, rfl⟩

end Sys2Proof

namespace Sys2Proof.Laws.EncodeFormat

/-- The word of an instruction is one byte in the instruction's format. -/
def Statement (i : Instr) : Prop :=
  ∀ (p : Params) (f : Format) (w : List Byte), encode p i = some (f, w) → i.format = some f ∧ w.length = 1

theorem rxSrSlaAck : Statement .rxSrSlaAck := fun _ _ _ h => encodeRow_format h
theorem rxSrArbSlaAck : Statement .rxSrArbSlaAck := fun _ _ _ h => encodeRow_format h
theorem rxSrGcallAck : Statement .rxSrGcallAck := fun _ _ _ h => encodeRow_format h
theorem rxSrArbGcallAck : Statement .rxSrArbGcallAck := fun _ _ _ h => encodeRow_format h
theorem rxSrDataAck : Statement .rxSrDataAck := fun _ _ _ h => encodeRow_format h
theorem rxSrDataFinal : Statement .rxSrDataFinal := fun _ _ _ h => encodeRow_format h
theorem rxSrGcallDataAck : Statement .rxSrGcallDataAck := fun _ _ _ h => encodeRow_format h
theorem rxSrStop : Statement .rxSrStop := fun _ _ _ h => encodeRow_format h
theorem rxStSlaAck : Statement .rxStSlaAck := fun _ _ _ h => encodeRow_format h
theorem rxStArbSlaAck : Statement .rxStArbSlaAck := fun _ _ _ h => encodeRow_format h
theorem rxStDataAck : Statement .rxStDataAck := fun _ _ _ h => encodeRow_format h
theorem rxStDataNack : Statement .rxStDataNack := fun _ _ _ h => encodeRow_format h
theorem rxStLastData : Statement .rxStLastData := fun _ _ _ h => encodeRow_format h
theorem rxUnrecognized (code : Byte) : Statement (.rxUnrecognized code) := fun _ _ _ h => encodeRow_format h
theorem txSrSlaAck : Statement .txSrSlaAck := fun _ _ _ h => encodeRow_format h
theorem txSrArbSlaAck : Statement .txSrArbSlaAck := fun _ _ _ h => encodeRow_format h
theorem txSrGcallAck : Statement .txSrGcallAck := fun _ _ _ h => encodeRow_format h
theorem txSrArbGcallAck : Statement .txSrArbGcallAck := fun _ _ _ h => encodeRow_format h
theorem txSrDataAck : Statement .txSrDataAck := fun _ _ _ h => encodeRow_format h
theorem txSrDataFinal : Statement .txSrDataFinal := fun _ _ _ h => encodeRow_format h
theorem txSrGcallDataAck : Statement .txSrGcallDataAck := fun _ _ _ h => encodeRow_format h
theorem txSrStop : Statement .txSrStop := fun _ _ _ h => encodeRow_format h
theorem txStSlaAck : Statement .txStSlaAck := fun _ _ _ h => encodeRow_format h
theorem txStArbSlaAck : Statement .txStArbSlaAck := fun _ _ _ h => encodeRow_format h
theorem txStDataAck : Statement .txStDataAck := fun _ _ _ h => encodeRow_format h
theorem txStDataNack : Statement .txStDataNack := fun _ _ _ h => encodeRow_format h
theorem txStLastData : Statement .txStLastData := fun _ _ _ h => encodeRow_format h
theorem txUnrecognized (code : Byte) : Statement (.txUnrecognized code) := fun _ _ _ h => encodeRow_format h
theorem cwArm : Statement .cwArm := fun _ _ _ h => by cases h; exact ⟨rfl, rfl⟩
theorem cwNack : Statement .cwNack := fun _ _ _ h => by cases h; exact ⟨rfl, rfl⟩
theorem cwDisarmed : Statement .cwDisarmed := fun _ _ _ h => by cases h; exact ⟨rfl, rfl⟩
theorem arWord (addr : Addr7) (gce : Bool) : Statement (.arWord addr gce) := fun _ _ _ h => by cases h; exact ⟨rfl, rfl⟩
theorem configure (gce : Bool) : Statement (.configure gce) := fun _ _ _ h => by cases h
theorem arm : Statement .arm := fun _ _ _ h => by cases h
theorem disarmAndReset : Statement .disarmAndReset := fun _ _ _ h => by cases h
theorem signal : Statement .signal := fun _ _ _ h => by cases h
theorem takeObserve : Statement .takeObserve := fun _ _ _ h => by cases h
theorem takeClear : Statement .takeClear := fun _ _ _ h => by cases h
theorem receive (buffer : List Byte) : Statement (.receive buffer) := fun _ _ _ h => by cases h
theorem respond (buffer : List Byte) : Statement (.respond buffer) := fun _ _ _ h => by cases h

end Sys2Proof.Laws.EncodeFormat
end

