-- ==== Sys2Proof/Laws/Step.lean ====
section
/-! SUPPORT. What a step can do, said once: the shapes of a row's next state, the moves of a step, the runs. -/

namespace Sys2Proof.Machine

/-- Everything a row of (`m`, `e`) can answer as a next state. -/
inductive RowNext (m : Mode) (e : Event) (s : State) : State → Prop where
  /-- R151, R153. -/
  | rearm : m = .receive → RowNext m e s (commandArm s)
  /-- R152, R154, R174. -/
  | arbitration : RowNext m e s (nackThenRaise (.err .arbitrationLost) s)
  /-- R155, R157 with room. -/
  | store (c l : Nat) : m = .receive → e = .srDataAck ∨ e = .srGcallDataAck → s.cursor = some c →
      s.len = some l → c < l → RowNext m e s (stored c s)
  /-- R155, R157 without room. -/
  | overflow (c : Nat) : m = .receive → s.cursor = some c → s.len = some c →
      RowNext m e s (raise (.err .bufferOverflow) s)
  /-- R156, R158. -/
  | ended : m = .receive → RowNext m e s (raise .okReceive s)
  /-- R159. -/
  | readInReceive : m = .receive → e = .stSlaAck →
      RowNext m e s (nackThenRaise (.err .notExpectedTransactionDirection) (gap (ioWriteDr s.cfg.dummyByte s)))
  /-- R175. -/
  | writeInRespond : m = .respond → RowNext m e s (raise (.err .notExpectedTransactionDirection) s)
  /-- R160, R176. -/
  | unknown (v : Byte) : s.snapshot = some v → RowNext m e s (raise (.err (.unknownState v)) s)
  /-- R170, R171 with a byte left. -/
  | load (c l : Nat) : m = .respond → s.cursor = some c → s.len = some l → c < l → RowNext m e s (loaded c s)
  /-- R170 with none left. -/
  | pad (c : Nat) : m = .respond → s.cursor = some c → s.len = some c → RowNext m e s (padByteNack s)
  /-- R171 with none left. -/
  | padAndEnd (c : Nat) : m = .respond → s.cursor = some c → s.len = some c →
      RowNext m e s (raise (.okRespond c) (gap (padByteNack s)))
  /-- R172, R173. -/
  | counted (c : Nat) : m = .respond → s.cursor = some c → RowNext m e s (raise (.okRespond c) s)

theorem storeByte_cases {e : Event} {s t : State} (he : e = .srDataAck ∨ e = .srGcallDataAck)
    (h : storeByte s = .next t) : RowNext .receive e s t := by
  cases hc : s.cursor with
  | none => simp [storeByte, readCursor, hc] at h
  | some c =>
    cases hl : s.len with
    | none => simp [storeByte, readCursor, readLen, hc, hl] at h
    | some l =>
      rcases Nat.lt_trichotomy c l with hlt | rfl | hgt
      · rw [storeByte_room hc hl hlt] at h
        cases h
        exact .store c l rfl he hc hl hlt
      · rw [storeByte_full hc hl] at h
        cases h
        exact .overflow c rfl hc hl
      · simp [storeByte, readCursor, readLen, memWrite, ioReadDr, hc, hl, Nat.ne_of_gt hgt,
          Nat.not_lt_of_gt hgt] at h

theorem loadByte_cases {e : Event} {c : Nat} {s t : State} (hc : s.cursor = some c) (h : loadByte c s = .next t) :
    RowNext .respond e s t := by
  cases hl : s.len with
  | none => simp [loadByte, memRead, readLen, hl] at h
  | some l =>
    by_cases hlt : c < l
    · rw [loadByte_next hl hlt] at h
      cases h
      exact .load c l rfl hc hl hlt
    · simp [loadByte, memRead, readLen, hl, hlt] at h

theorem unknownState_cases {m : Mode} {e : Event} {s t : State} (h : unknownState s = .next t) : RowNext m e s t := by
  cases hv : s.snapshot with
  | none => simp [unknownState, readSnapshot, hv] at h
  | some v =>
    rw [unknownState_next hv] at h
    cases h
    exact .unknown v hv

theorem succeedWithCount_cases {e : Event} {s t : State} (h : succeedWithCount s = .next t) :
    RowNext .respond e s t := by
  cases hc : s.cursor with
  | none => simp [succeedWithCount, readCursor, hc] at h
  | some c =>
    rw [succeedWithCount_next hc] at h
    cases h
    exact .counted c rfl hc

theorem execTxStSlaAck_cases {e : Event} {s t : State} (h : execTxStSlaAck s = .next t) : RowNext .respond e s t := by
  cases hc : s.cursor with
  | none => simp [execTxStSlaAck, readCursor, hc] at h
  | some c =>
    cases hl : s.len with
    | none => simp [execTxStSlaAck, readCursor, readLen, hc, hl] at h
    | some l =>
      simp only [execTxStSlaAck, readCursor_some hc, readLen_some hl] at h
      split at h
      · next hcl =>
        cases h
        exact .pad c rfl hc (hcl ▸ hl)
      · exact loadByte_cases hc h

theorem execTxStDataAck_cases {e : Event} {s t : State} (h : execTxStDataAck s = .next t) :
    RowNext .respond e s t := by
  cases hc : s.cursor with
  | none => simp [execTxStDataAck, readCursor, hc] at h
  | some c =>
    cases hl : s.len with
    | none => simp [execTxStDataAck, readCursor, readLen, hc, hl] at h
    | some l =>
      simp only [execTxStDataAck, readCursor_some hc, readLen_some hl] at h
      split at h
      · next hcl =>
        cases h
        exact .padAndEnd c rfl hc (hcl ▸ hl)
      · exact loadByte_cases hc h

/-- The shapes of a row's next state. -/
theorem row_cases {m : Mode} {e : Event} {s t : State} (h : exec (rowInstr m e) s = .next t) : RowNext m e s t := by
  cases m with
  | receive =>
    cases e with
    | srSlaAck => cases h; exact .rearm rfl
    | srArbSlaAck => cases h; exact .arbitration
    | srGcallAck => cases h; exact .rearm rfl
    | srArbGcallAck => cases h; exact .arbitration
    | srDataAck => exact storeByte_cases (.inl rfl) h
    | srDataFinal => cases h; exact .ended rfl
    | srGcallDataAck => exact storeByte_cases (.inr rfl) h
    | srStop => cases h; exact .ended rfl
    | stSlaAck => cases h; exact .readInReceive rfl rfl
    | stArbSlaAck => exact unknownState_cases h
    | stDataAck => exact unknownState_cases h
    | stDataNack => exact unknownState_cases h
    | stLastData => exact unknownState_cases h
    | unrecognized c => exact unknownState_cases h
  | respond =>
    cases e with
    | srSlaAck => cases h; exact .writeInRespond rfl
    | srArbSlaAck => exact unknownState_cases h
    | srGcallAck => exact unknownState_cases h
    | srArbGcallAck => exact unknownState_cases h
    | srDataAck => exact unknownState_cases h
    | srDataFinal => exact unknownState_cases h
    | srGcallDataAck => exact unknownState_cases h
    | srStop => exact unknownState_cases h
    | stSlaAck => exact execTxStSlaAck_cases h
    | stArbSlaAck => cases h; exact .arbitration
    | stDataAck => exact execTxStDataAck_cases h
    | stDataNack => exact succeedWithCount_cases h
    | stLastData => exact succeedWithCount_cases h
    | unrecognized c => exact unknownState_cases h

/-- No row writes what `RowFrame` lists. -/
theorem RowNext.frame {m : Mode} {e : Event} {s t : State} (h : RowNext m e s t) : RowFrame s t := by
  cases h with
  | store c l => exact (stored_frame c s).1
  | load c l => exact (loaded_frame c s).1
  | pad c => exact (padByteNack_frame s).1
  | _ => constructor <;> simp [nackThenRaise, padByteNack]

/-- A row that raises no outcome leaves the controller armed, a row that raises one leaves it disarmed (R139, R143). -/
theorem RowNext.control {m : Mode} {e : Event} {s t : State} (h : RowNext m e s t) (hw : s.cfg.wf = true) :
    (t.outcome = s.outcome ∧ (t.cr = rearmed ∨ t.cr = nacked)) ∨ (t.outcome ≠ none ∧ isDisarmed t.cr = true) := by
  cases h with
  | rearm => exact .inl ⟨by simp, .inl (by simp [commandArm_eq hw])⟩
  | store c l => exact .inl ⟨(stored_frame c s).2.2.1, .inl (stored_cr c hw)⟩
  | load c l => exact .inl ⟨(loaded_frame c s).2.2.1, .inl (loaded_cr c hw)⟩
  | pad c => exact .inl ⟨(padByteNack_frame s).2.2.1, .inr (padByteNack_cr hw)⟩
  | arbitration => exact .inr ⟨by simp [nackThenRaise], nackThenRaise_disarmed _ hw⟩
  | readInReceive => exact .inr ⟨by simp [nackThenRaise], nackThenRaise_disarmed _ (by simpa using hw)⟩
  | padAndEnd c =>
    exact .inr ⟨by simp, by rw [raise_eq _ (by simpa [padByteNack] using hw)]; exact isDisarmed_disarmed _⟩
  | _ => exact .inr ⟨by simp, by rw [raise_eq _ hw]; exact isDisarmed_disarmed _⟩

/-! ### The step -/

/-- A step is made only under a legal configuration. -/
theorem step_cfg {s t : State} (h : step s = .next t) : s.cfg.wf = true := by
  unfold step at h
  split at h
  · assumption
  · simp at h

theorem step_move {s : State} {m : Move} {rest : List Move} (hw : s.cfg.wf = true) (ha : s.agenda = m :: rest) :
    step s = moveStep m { s with agenda := rest } := by
  simp [step, hw, ha]

theorem step_free {s : State} (hw : s.cfg.wf = true) (ha : s.agenda = []) : step s = freeStep s := by
  simp [step, hw, ha]

/-- The moves of a step. `u` is the state with the schedule moved on, equal to `s` in every other field. -/
inductive StepNext (s t : State) : Prop where
  | engine (u : State) (gs : List (List EnvMove)) (rest : List Move) :
      u = { s with agenda := rest, gaps := gs } → engineStep u = .next t → StepNext s t
  | caller (u : State) (op : Instr) (gs : List (List EnvMove)) (rest : List Move) : s.agenda = .caller op gs :: rest →
      u = { s with agenda := rest, gaps := gs } → callerStep op u = .next t → StepNext s t
  | env (u : State) (e : EnvMove) (rest : List Move) :
      u = { s with agenda := rest } → t = envStep e u → StepNext s t

/-- Everything a step can do. -/
theorem step_cases {s t : State} (h : step s = .next t) : StepNext s t := by
  have hw := step_cfg h
  cases ha : s.agenda with
  | nil =>
    rw [step_free hw ha, freeStep] at h
    split at h
    · simp only [exec, execSignal, Host.Outcome.next.injEq] at h
      exact .env s .signal [] (by simp [← ha]) h.symm
    · exact .engine _ [] [] (by simp [← ha]) h
  | cons m rest =>
    rw [step_move hw ha] at h
    cases m with
    | engine gs => exact .engine _ gs rest rfl h
    | caller op gs => exact .caller _ op gs rest ha rfl h
    | env e =>
      refine .env _ e rest rfl ?_
      cases e <;> simpa [moveStep, envMoveStep, envStep, exec, execSignal] using h.symm

/-- What a step of the engine can answer, phase by phase (R132 to R136, R140). -/
inductive EngineNext (s t : State) : Prop where
  | idle : s.phase = .idle → t = s → EngineNext s t
  | wait : s.phase = .wait →
      t = { s with phase := if s.flag then .snapshot else .wait, trace := .flagRead s.flag :: s.trace } →
      EngineNext s t
  | snapshot : s.phase = .snapshot →
      t = { s with
        snapshot := some (snapshotOf s.cfg s.sr)
        event := some (decodeEvent s.cfg (snapshotOf s.cfg s.sr))
        phase := .act
        trace := .srRead s.sr :: s.trace } → EngineNext s t
  | act (m : Mode) (e : Event) (u : State) : s.phase = .act → s.mode = some m → s.event = some e →
      RowNext m e s u → t = { u with phase := .clear } → EngineNext s t
  | clear : s.phase = .clear →
      t = { s with flag := false, phase := if s.outcome = none then .wait else .done, trace := .flagClear :: s.trace } →
      EngineNext s t
  | done (o : CallOutcome) (l : Nat) : s.phase = .done → s.outcome = some o → s.len = some l →
      t = { s with
        delivered := { outcome := o, buf := s.buf, len := l } :: s.delivered
        mode := none, cursor := none, len := none, snapshot := none, event := none, phase := .idle } → EngineNext s t

theorem engineStep_cases {s t : State} (h : engineStep s = .next t) : EngineNext s t := by
  unfold engineStep at h
  split at h
  · next hp => exact .idle hp (by simpa using h.symm)
  · next hp => exact .wait hp (by simpa [waitStep, exec, execTakeObserve, flagRead, andThen, State.record] using h.symm)
  · next hp => exact .snapshot hp (by simpa [snapshotStep, ioReadSr, State.record] using h.symm)
  · next hp =>
    unfold actStep readMode readEvent at h
    split at h
    · next m hm =>
      split at h
      · next e he =>
        obtain ⟨u, hu, ht⟩ := andThen_next.1 h
        exact .act m e u hp hm he (row_cases hu) (by simpa using ht.symm)
      · simp at h
    · simp at h
  · next hp =>
    exact .clear hp (by simpa [clearStep, exec, execTakeClear, flagClear, andThen, State.record] using h.symm)
  · next hp =>
    obtain ⟨o, l, ho, hl, ht⟩ := returnToCaller_next h
    exact .done o l hp ho hl ht

/-- What a move of the caller can answer: only in IDLE, and only to one of its four operations (R79, R110). -/
inductive CallerNext (op : Instr) (s t : State) : Prop where
  | call (m : Mode) (b : List Byte) : (m = .receive ∧ op = .receive b) ∨ (m = .respond ∧ op = .respond b) →
      s.phase = .idle → b.length ≤ s.cfg.maxLen →
      t = { s with mode := some m, buf := .ofBytes b, len := some b.length, cursor := some 0, outcome := none, phase := .wait } →
      CallerNext op s t
  | configure (g : Bool) : op = .configure g → s.phase = .idle →
      t = commandDisarm (gap (ioWriteAr (addressWord s.cfg s.addr7 g) s)) → CallerNext op s t
  | arm : op = .arm → s.phase = .idle → t = commandArm s → CallerNext op s t

theorem whenIdle_next {s t : State} {k : Result} (h : whenIdle s k = .next t) : s.phase = .idle ∧ k = .next t := by
  unfold whenIdle at h
  split at h
  · next hp => exact ⟨hp, h⟩
  · simp at h

theorem callerStep_cases {op : Instr} {s t : State} (h : callerStep op s = .next t) : CallerNext op s t := by
  cases op with
  | configure g =>
    obtain ⟨hp, hk⟩ := whenIdle_next (show whenIdle s _ = .next t from h)
    exact .configure g rfl hp (by simpa using hk.symm)
  | arm =>
    obtain ⟨hp, hk⟩ := whenIdle_next (show whenIdle s _ = .next t from h)
    exact .arm rfl hp (by simpa using hk.symm)
  | receive b =>
    obtain ⟨hp, hb, ht⟩ := startCall_next (show startCall .receive b s = .next t from h)
    exact .call .receive b (.inl ⟨rfl, rfl⟩) hp hb ht
  | respond b =>
    obtain ⟨hp, hb, ht⟩ := startCall_next (show startCall .respond b s = .next t from h)
    exact .call .respond b (.inr ⟨rfl, rfl⟩) hp hb ht
  | _ => simp [callerStep] at h

/-! ### Runs -/

/-- A run goes on with the next state of its first step. -/
theorem run_next {n : Nat} {s t : State} (h : step s = .next t) : core.run (n + 1) s = core.run n t := by
  have e := Host.Core.run.eq_2 core s n
  rw [show core.step s = .next t from h] at e
  exact e

/-- A run in two parts. -/
theorem run_add (n k : Nat) {s t : State} (h : core.run n s = .next t) : core.run (n + k) s = core.run k t := by
  induction n generalizing s with
  | zero =>
    cases (h : (.next s : Result) = .next t)
    rw [Nat.zero_add]
  | succ n ih =>
    rw [show n + 1 + k = (n + k) + 1 by omega]
    have e := Host.Core.run.eq_2 core s n
    cases hs : step s with
    | next u => exact (run_next hs).trans (ih ((run_next hs).symm.trans h))
    | fault r =>
      rw [show core.step s = .fault r from hs] at e
      cases e.symm.trans h
    | refused r =>
      rw [show core.step s = .refused r from hs] at e
      cases e.symm.trans h

end Sys2Proof.Machine
end

