-- ==== Sys2Proof/Tests/Slice0.lean ====
section
/-! SUPPORT. The model's own tests: the refusals of WellFormed; words written out from the encoding tables; one step for
each instruction, with the expected results of 95_test_vectors.md; the host's two questions; and, for each obligation with
hypotheses, concrete states and operands that meet them. -/

namespace Sys2Proof.Tests

open Sys2Proof Sys2Proof.Machine

/-! ### WellFormed: what the checks refuse -/

/-- A second code 0x60. -/
def twiceTheCode : Params := { codes := { srStop := 0x60#8 } }

/-- A code with prescaler bits. -/
def codeWithPrescaler : Params := { codes := { srStop := 0xA1#8 } }

/-- Two control bits in one place. -/
def controlOverlap : Params := { control := { stop := 5 } }

/-- A control bit outside the register. -/
def controlOutside : Params := { control := { intEn := 8 } }

/-- The general-call bit inside the address field. -/
def addressOverlap : Params := { arGce := 3 }

/-- An address field that leaves the register. -/
def addressOutside : Params := { arAddrShift := 2 }

/-- A slave address of eight bits. -/
def slaveAddr128 : Params := { slaveAddr := 128 }

/-- The code of `SR_DATA_FINAL` absent (R74). -/
def noFinal : Params := { codes := { srDataFinal := none } }

/-- A one-bit cursor: a call takes at most one byte. -/
def oneBitCursor : Params := { cursorBits := 1 }

theorem test_default_is_well_formed : Params.default.wf = true := by decide
theorem test_no_final_is_well_formed : noFinal.wf = true := by decide
theorem test_refuses_equal_codes : twiceTheCode.codesDistinct = false ∧ twiceTheCode.wf = false := by decide
theorem test_refuses_code_with_prescaler :
    codeWithPrescaler.codesClearOfPrescaler = false ∧ codeWithPrescaler.wf = false := by decide
theorem test_refuses_control_overlap : controlOverlap.control.wf = false ∧ controlOverlap.wf = false := by decide
theorem test_refuses_control_outside : controlOutside.control.wf = false ∧ controlOutside.wf = false := by decide
theorem test_refuses_address_overlap : addressOverlap.addressFieldsDisjoint = false ∧ addressOverlap.wf = false := by
  decide
theorem test_refuses_address_outside : addressOutside.addressFieldsDisjoint = false ∧ addressOutside.wf = false := by
  decide
theorem test_refuses_slave_address_128 : slaveAddr128.slaveAddrFits = false ∧ slaveAddr128.wf = false := by decide
theorem test_refuses_unrecognized_of_a_code : (Instr.rxUnrecognized 0x60#8).wf .default = false := by decide
theorem test_refuses_unrecognized_with_prescaler : (Instr.txUnrecognized 0x01#8).wf .default = false := by decide
theorem test_refuses_final_row_without_its_code :
    (Instr.rxSrDataFinal).wf noFinal = false ∧ (Instr.txSrDataFinal).wf noFinal = false := by decide
theorem test_refuses_overlong_buffer :
    (Instr.receive [1#8, 2#8]).wf oneBitCursor = false ∧ (Instr.respond [1#8, 2#8]).wf oneBitCursor = false := by decide

/-! ### Decoding: words written out from R72, R76 and R77 (vectors V1, V2, V3) -/

/-- A status byte under a mode, or a control or address word, decodes to one instruction with nothing left. -/
def reads (f : Format) (b : Byte) (i : Instr) : Bool :=
  match decode .default f [b] with
  | .ok (j, []) => j == i
  | _ => false

theorem test_decode_rows_of_receive :
    reads (.status .receive) 0b01100000#8 .rxSrSlaAck ∧
    reads (.status .receive) 0b01101000#8 .rxSrArbSlaAck ∧
    reads (.status .receive) 0b01110000#8 .rxSrGcallAck ∧
    reads (.status .receive) 0b01111000#8 .rxSrArbGcallAck ∧
    reads (.status .receive) 0b10000000#8 .rxSrDataAck ∧
    reads (.status .receive) 0b10001000#8 .rxSrDataFinal ∧
    reads (.status .receive) 0b10010000#8 .rxSrGcallDataAck ∧
    reads (.status .receive) 0b10100000#8 .rxSrStop ∧
    reads (.status .receive) 0b10101000#8 .rxStSlaAck ∧
    reads (.status .receive) 0b10110000#8 .rxStArbSlaAck ∧
    reads (.status .receive) 0b10111000#8 .rxStDataAck ∧
    reads (.status .receive) 0b11000000#8 .rxStDataNack ∧
    reads (.status .receive) 0b11001000#8 .rxStLastData := by decide
theorem test_decode_rows_of_respond :
    reads (.status .respond) 0b01100000#8 .txSrSlaAck ∧
    reads (.status .respond) 0b01101000#8 .txSrArbSlaAck ∧
    reads (.status .respond) 0b01110000#8 .txSrGcallAck ∧
    reads (.status .respond) 0b01111000#8 .txSrArbGcallAck ∧
    reads (.status .respond) 0b10000000#8 .txSrDataAck ∧
    reads (.status .respond) 0b10001000#8 .txSrDataFinal ∧
    reads (.status .respond) 0b10010000#8 .txSrGcallDataAck ∧
    reads (.status .respond) 0b10100000#8 .txSrStop ∧
    reads (.status .respond) 0b10101000#8 .txStSlaAck ∧
    reads (.status .respond) 0b10110000#8 .txStArbSlaAck ∧
    reads (.status .respond) 0b10111000#8 .txStDataAck ∧
    reads (.status .respond) 0b11000000#8 .txStDataNack ∧
    reads (.status .respond) 0b11001000#8 .txStLastData := by decide
theorem test_decode_default_rows :
    reads (.status .receive) 0x98#8 (.rxUnrecognized 0x98#8) ∧ reads (.status .respond) 0x08#8 (.txUnrecognized 0x08#8) ∧
    reads (.status .receive) 0x64#8 (.rxUnrecognized 0x64#8) ∧ reads (.status .respond) 0xFF#8 (.txUnrecognized 0xFC#8) := by
  decide
/-- V1: the prescaler bits are removed before the codes are compared. -/
theorem test_decode_masks_prescaler :
    reads (.status .receive) 0x63#8 .rxSrSlaAck ∧ reads (.status .receive) 0xA2#8 .rxSrStop ∧
    reads (.status .receive) 0x03#8 (.rxUnrecognized 0x00#8) ∧
    reads (.status .respond) 0xFB#8 (.txUnrecognized 0xF8#8) := by decide
/-- V1, the note on 0x88. -/
theorem test_decode_without_final_code : decodeStatus noFinal .receive 0x88#8 = .rxUnrecognized 0x88#8 := by decide
/-- V3: `INT` 7, `ACK_EN` 6, `EN` 2, `INT_EN` 0. -/
theorem test_decode_command_words :
    reads .control 0b11000101#8 .cwArm ∧ reads .control 0b10000101#8 .cwNack ∧
    reads .control 0b00000000#8 .cwDisarmed := by decide
theorem test_control_decoder_rejects_by_name :
    decodeControl .default 0xE5#8 = .error (.notACommandWord 0xE5#8) ∧ decode .default .control [] = .error .noByte :=
  ⟨rfl, rfl⟩
/-- V2: seven address bits, then the general-call bit. -/
theorem test_decode_address_words :
    reads .address 0b0100110_1#8 (.arWord 0x26#7 true) ∧ reads .address 0b1111111_0#8 (.arWord 0x7F#7 false) ∧
    reads .address 0b0000001_1#8 (.arWord 0x01#7 true) := by decide
theorem test_address_word_examples :
    addressWord .default 0x26#7 false = 0x4C#8 ∧ addressWord .default 0x7F#7 true = 0xFF#8 ∧
    addressWord .default 0x40#7 false = 0x80#8 ∧ addressWord .default 0x00#7 false = 0x00#8 := by decide
/-- V9: tags and payloads. -/
theorem test_outcome_tags :
    (CallOutcome.okRespond 2).tag = 0 ∧ (CallOutcome.okRespond 2).payload = some 2 ∧
    (CallOutcome.err .bufferOverflow).tag = 1 ∧ (CallOutcome.err .notImplemented).tag = 5 ∧
    (CallOutcome.err (.unknownState 0xA0#8)).tag = 4 ∧ (CallOutcome.err (.unknownState 0xA0#8)).payload = some 0xA0 := by
  decide

/-! ### One step of each instruction -/

/-- The answer is a next state of which `f` holds. -/
def after (r : Result) (f : State → Bool) : Bool :=
  match r with
  | .next t => f t
  | .fault _ => false
  | .refused _ => false

/-- The common start of the spec's programs. -/
def start : State := .boot .default 0xEE#8 0xEE#8 0xEE#8

/-- `CR` with an event pending on an armed controller. -/
def pendingControl : Control := { rearmed with int := true }

/-- A call of mode `m` about to act on the raw status `raw`. -/
def acting (m : Mode) (bytes : List Byte) (c : Nat) (raw dr : Byte) : State :=
  { start with
    mode := some m, buf := .ofBytes bytes, len := some bytes.length, cursor := some c, sr := raw, dr := dr
    snapshot := some (snapshotOf .default raw), event := some (decodeEvent .default (snapshotOf .default raw))
    flag := true, cr := pendingControl, phase := .act, agenda := [.engine []] }

/-- The ACT step issues `accesses` (in order), and leaves this cursor, this outcome and this buffer. -/
def acts (s : State) (accesses : List Access) (c : Nat) (o : Option CallOutcome) (bytes : List Byte) : Bool :=
  after (step s) fun t =>
    t.trace.reverse == accesses && t.cursor == some c && t.outcome == o && t.buf == .ofBytes bytes && t.phase == .clear

/-- The caller's buffer of V7. -/
def four : List Byte := [0xEE#8, 0xEE#8, 0xEE#8, 0xEE#8]

theorem test_rx_sr_sla_ack :
    acts (acting .receive four 2 0x60#8 0x99#8) [.crWrite 0xC5#8] 2 none four = true := by decide
theorem test_rx_sr_arb_sla_ack :
    acts (acting .receive four 0 0x68#8 0x99#8) [.crWrite 0x85#8, .crWrite 0x00#8] 0 (some (.err .arbitrationLost)) four = true := by decide
theorem test_rx_sr_gcall_ack :
    acts (acting .receive four 0 0x70#8 0x99#8) [.crWrite 0xC5#8] 0 none four = true := by decide
theorem test_rx_sr_arb_gcall_ack :
    acts (acting .receive four 1 0x78#8 0x99#8) [.crWrite 0x85#8, .crWrite 0x00#8] 1 (some (.err .arbitrationLost)) four = true := by decide
theorem test_rx_sr_data_ack_last_place :
    acts (acting .receive four 3 0x80#8 0xFF#8) [.drRead 0xFF#8, .bufWrite 3 0xFF#8, .crWrite 0xC5#8] 4 none [0xEE#8, 0xEE#8, 0xEE#8, 0xFF#8] = true := by decide
theorem test_rx_sr_data_ack_overflow :
    acts (acting .receive four 4 0x80#8 0x99#8) [.crWrite 0x00#8] 4 (some (.err .bufferOverflow)) four = true := by decide
theorem test_rx_sr_data_final :
    acts (acting .receive four 3 0x88#8 0x77#8) [.crWrite 0x00#8] 3 (some .okReceive) four = true := by decide
theorem test_rx_sr_gcall_data_ack :
    acts (acting .receive [0xEE#8, 0xEE#8] 0 0x90#8 0x06#8) [.drRead 0x06#8, .bufWrite 0 0x06#8, .crWrite 0xC5#8] 1 none [0x06#8, 0xEE#8] = true := by decide
theorem test_rx_sr_gcall_data_ack_overflow :
    acts (acting .receive [0xEE#8, 0xEE#8] 2 0x90#8 0x06#8) [.crWrite 0x00#8] 2 (some (.err .bufferOverflow)) [0xEE#8, 0xEE#8] = true := by decide
theorem test_rx_sr_stop :
    acts (acting .receive [] 0 0xA0#8 0x99#8) [.crWrite 0x00#8] 0 (some .okReceive) [] = true := by decide
theorem test_rx_st_sla_ack :
    acts (acting .receive four 2 0xA8#8 0x99#8) [.drWrite 0x00#8, .crWrite 0x85#8, .crWrite 0x00#8] 2 (some (.err .notExpectedTransactionDirection)) four = true := by decide
theorem test_rx_st_arb_sla_ack :
    acts (acting .receive four 0 0xB0#8 0x99#8) [.crWrite 0x00#8] 0 (some (.err (.unknownState 0xB0#8))) four = true := by decide
theorem test_rx_st_data_ack :
    acts (acting .receive four 0 0xB8#8 0x99#8) [.crWrite 0x00#8] 0 (some (.err (.unknownState 0xB8#8))) four = true := by decide
theorem test_rx_st_data_nack :
    acts (acting .receive four 0 0xC0#8 0x99#8) [.crWrite 0x00#8] 0 (some (.err (.unknownState 0xC0#8))) four = true := by decide
theorem test_rx_st_last_data :
    acts (acting .receive four 0 0xC8#8 0x99#8) [.crWrite 0x00#8] 0 (some (.err (.unknownState 0xC8#8))) four = true := by decide
theorem test_rx_unrecognized :
    acts (acting .receive four 0 0xF9#8 0x12#8) [.crWrite 0x00#8] 0 (some (.err (.unknownState 0xF8#8))) four = true := by decide
theorem test_tx_st_sla_ack :
    acts (acting .respond [0x0A#8, 0x14#8] 0 0xA8#8 0x99#8) [.bufRead 0 0x0A#8, .drWrite 0x0A#8, .crWrite 0xC5#8] 1 none [0x0A#8, 0x14#8] = true := by decide
theorem test_tx_st_sla_ack_pads :
    acts (acting .respond [0x55#8] 1 0xA8#8 0x99#8) [.drWrite 0x00#8, .crWrite 0x85#8] 1 none [0x55#8] = true := by decide
theorem test_tx_st_data_ack :
    acts (acting .respond [0x0A#8, 0x14#8] 1 0xB8#8 0x99#8) [.bufRead 1 0x14#8, .drWrite 0x14#8, .crWrite 0xC5#8] 2 none [0x0A#8, 0x14#8] = true := by decide
theorem test_tx_st_data_ack_pads_and_ends :
    acts (acting .respond [0x0A#8, 0x14#8] 2 0xB8#8 0x99#8) [.drWrite 0x00#8, .crWrite 0x85#8, .crWrite 0x00#8] 2 (some (.okRespond 2)) [0x0A#8, 0x14#8] = true := by decide
theorem test_tx_st_data_nack :
    acts (acting .respond [0x0A#8, 0x14#8] 1 0xC0#8 0x99#8) [.crWrite 0x00#8] 1 (some (.okRespond 1)) [0x0A#8, 0x14#8] = true := by decide
theorem test_tx_st_last_data :
    acts (acting .respond [0x0A#8, 0x14#8] 1 0xC8#8 0x99#8) [.crWrite 0x00#8] 1 (some (.okRespond 1)) [0x0A#8, 0x14#8] = true := by decide
theorem test_tx_st_arb_sla_ack :
    acts (acting .respond [0x0A#8, 0x14#8] 1 0xB0#8 0x99#8) [.crWrite 0x85#8, .crWrite 0x00#8] 1 (some (.err .arbitrationLost)) [0x0A#8, 0x14#8] = true := by decide
theorem test_tx_sr_sla_ack :
    acts (acting .respond [0x0A#8, 0x14#8] 1 0x60#8 0x99#8) [.crWrite 0x00#8] 1 (some (.err .notExpectedTransactionDirection)) [0x0A#8, 0x14#8] = true := by decide
theorem test_tx_sr_arb_sla_ack :
    acts (acting .respond [0x0A#8, 0x14#8] 1 0x68#8 0x99#8) [.crWrite 0x00#8] 1 (some (.err (.unknownState 0x68#8))) [0x0A#8, 0x14#8] = true := by decide
theorem test_tx_sr_gcall_ack :
    acts (acting .respond [0x0A#8, 0x14#8] 1 0x70#8 0x99#8) [.crWrite 0x00#8] 1 (some (.err (.unknownState 0x70#8))) [0x0A#8, 0x14#8] = true := by decide
theorem test_tx_sr_arb_gcall_ack :
    acts (acting .respond [0x0A#8, 0x14#8] 1 0x78#8 0x99#8) [.crWrite 0x00#8] 1 (some (.err (.unknownState 0x78#8))) [0x0A#8, 0x14#8] = true := by decide
theorem test_tx_sr_data_ack :
    acts (acting .respond [0x0A#8, 0x14#8] 1 0x80#8 0x99#8) [.crWrite 0x00#8] 1 (some (.err (.unknownState 0x80#8))) [0x0A#8, 0x14#8] = true := by decide
theorem test_tx_sr_data_final :
    acts (acting .respond [0x0A#8, 0x14#8] 1 0x88#8 0x99#8) [.crWrite 0x00#8] 1 (some (.err (.unknownState 0x88#8))) [0x0A#8, 0x14#8] = true := by decide
theorem test_tx_sr_gcall_data_ack :
    acts (acting .respond [0x0A#8, 0x14#8] 1 0x90#8 0x99#8) [.crWrite 0x00#8] 1 (some (.err (.unknownState 0x90#8))) [0x0A#8, 0x14#8] = true := by decide
theorem test_tx_sr_stop :
    acts (acting .respond [0x0A#8, 0x14#8] 1 0xA0#8 0x99#8) [.crWrite 0x00#8] 1 (some (.err (.unknownState 0xA0#8))) [0x0A#8, 0x14#8] = true := by decide
theorem test_tx_unrecognized :
    acts (acting .respond [0x0A#8, 0x14#8] 0 0xFA#8 0x99#8) [.crWrite 0x00#8] 0 (some (.err (.unknownState 0xF8#8))) [0x0A#8, 0x14#8] = true := by decide

/-- V3: `CR` before and after each command word. -/
theorem test_cw_arm_clears_start_stop_and_pending :
    after (exec .cwArm { start with cr :=
      { int := true, ackEn := true, start := true, stop := true, en := true, intEn := true } })
      (fun t => t.cr == rearmed) = true := by decide
theorem test_cw_nack :
    after (exec .cwNack { start with cr := pendingControl })
      (fun t => t.cr == nacked && t.trace == [.crWrite 0x85#8]) = true := by decide
theorem test_cw_disarmed_keeps_pending :
    after (exec .cwDisarmed { start with cr := pendingControl })
      (fun t => t.cr == disarmed true && t.trace == [.crWrite 0x00#8]) = true := by decide
/-- R31, R55: the byte of `CR` at the default layout, before and after a write of 0xFF. -/
theorem test_cr_as_a_byte :
    Params.default.control.word { pendingControl with unnamedHigh := true, unnamedLow := true } = 0xCF#8 ∧
    Params.default.control.word (ioWriteCr 0xFF#8 { start with cr := pendingControl }).cr = 0x75#8 := by decide
theorem test_ar_word : after (exec (.arWord 0x7F#7 true) start) (fun t => t.ar == 0xFF#8 && t.cr == start.cr) = true := by
  decide
/-- V4. -/
theorem test_configure :
    after (exec (.configure true) start)
      (fun t => t.trace.reverse == [.arWrite 0x4D#8, .crWrite 0x00#8] && t.ar == 0x4D#8) = true := by decide
/-- R54: a `BusEvent` between the two writes of `configure` sets `INT`, and the disarm leaves it. -/
theorem test_configure_with_an_event_between_its_writes :
    after (exec (.configure false) { start with cr := rearmed, gaps := [[.bus 0x60#8 none]] })
      (fun t => t.cr == disarmed true &&
        t.trace.reverse == [.arWrite 0x4C#8, .busEvent 0x60#8 none, .crWrite 0x00#8]) = true := by decide
theorem test_arm : after (exec .arm start) (fun t => t.cr == rearmed && t.trace == [.crWrite 0xC5#8]) = true := by decide
/-- R110, U14. -/
theorem test_bare_command_word_of_the_caller_is_refused :
    step { start with agenda := [.caller .cwNack []] } = .refused .notACallerOperation := rfl
theorem test_arm_in_a_call_is_refused : exec .arm { start with phase := .wait } = .refused .operationDuringCall := rfl
theorem test_disarm_and_reset :
    after (exec .disarmAndReset { start with cr := nacked }) (fun t => t.cr == disarmed false) = true := by decide
/-- V5. -/
theorem test_signal : after (exec .signal { start with cr := pendingControl }) (fun t => t.flag) = true := by decide
theorem test_signal_after_a_disarm_is_no_step :
    after (exec .signal { start with cr := disarmed true }) (fun t => !t.flag && t.trace == []) = true := by decide
theorem test_observe_does_not_clear :
    after (exec .takeObserve { start with flag := true }) (fun t => t.flag && t.trace == [.flagRead true]) = true := by
  decide
theorem test_clear : after (exec .takeClear { start with flag := true }) (fun t => !t.flag) = true := by decide
/-- V5, the last line: `SR = 0x03`, `EV(0x80, 0x10)`. -/
theorem test_bus_event_keeps_prescaler :
    busEvent 0x80#8 (some 0x10#8) { start with sr := 0x03#8, cr := rearmed } =
      { start with sr := 0x83#8, dr := 0x10#8, cr := pendingControl, trace := [.busEvent 0x80#8 (some 0x10#8)] } := by
  decide
/-- R35, R222: a data status that delivers no byte is no bus event. -/
theorem test_data_event_needs_its_byte :
    busEvent 0x80#8 none { start with cr := rearmed } = { start with cr := rearmed } ∧
    busEvent 0x91#8 none { start with cr := rearmed } = { start with cr := rearmed } ∧
    (busEvent 0x88#8 none { start with cr := rearmed }).cr.int = true := by decide
/-- V6. -/
theorem test_receive_starts_a_call :
    after (exec (.receive four) start) (fun t => t.mode == some .receive && t.len == some 4 && t.cursor == some 0 &&
      t.phase == .wait && t.trace == [] && t.buf.toBytes 4 == four) = true := by decide
theorem test_respond_starts_a_call :
    after (exec (.respond []) start) (fun t => t.mode == some .respond && t.len == some 0 && t.phase == .wait) = true := by
  decide
/-- R27: a read of a working register that has no value is a fault. -/
theorem test_read_without_value_faults :
    exec .rxStDataAck start = .fault (.noValue .snapshot) ∧ exec .txStDataNack start = .fault (.noValue .cursor) :=
  ⟨rfl, rfl⟩
/-- R10: a step under a configuration that breaks a constraint is refused. -/
theorem test_bad_configuration_is_refused : step { start with cfg := twiceTheCode } = .refused .badConfiguration := by
  rfl

/-! ### Reset, memory, the script notation, the host's questions -/

theorem test_reset_memory_is_canonical : State.reset.buf.wf = true := by decide
theorem test_write_of_the_unlisted_byte_removes_the_entry :
    (Memory.ofBytes [1#8, 2#8]).write 0 0#8 = [(1, 2#8)] := by decide
/-- R82: program P6 as a script, its status byte with the prescaler bits and the moves of its first event. -/
theorem test_script_moves :
    ScriptEvent.moves .default { status := .mnemonic .srSlaAck, ps := 3#8 } =
      [.env (.prescaler 3#8), .env (.bus 0x60#8 none), .env .signal, .engine [], .engine [], .engine [], .engine []] := by
  decide
/-- R82, R74: with the code of `SR_DATA_FINAL` absent its mnemonic is still an event, with the default code. -/
theorem test_script_mnemonic_without_a_code :
    ScriptEvent.moves noFinal { status := .mnemonic .srDataFinal } =
      ScriptEvent.moves noFinal { status := .byte 0x88#8 } := by decide
theorem test_table_words :
    decodeTableWord 8 0x60 = some .rxSrSlaAck ∧ decodeTableWord 8 0xC5 = some .cwArm ∧
    decodeTableWord 8 0x85 = some .cwNack ∧ decodeTableWord 8 0x00 = some .cwDisarmed ∧
    decodeTableWord 8 0x98 = some (.rxUnrecognized 0x98#8) := by decide
theorem test_fetch_word_runs_a_row :
    after (step (State.reset.withFetchWord 8 0x60)) (fun t => t.trace == [.crWrite 0xC5#8] && t.phase == .clear) = true := by
  decide
/-- R83, R170, R158: the steps that issue `CW_ARM`, `CW_NACK` and `CW_DISARMED`. -/
theorem test_fetch_word_issues_a_command_word :
    after (step (State.reset.withFetchWord 8 0xC5)) (fun t => t.trace == [.crWrite 0xC5#8] && t.cr == rearmed) = true ∧
    after (step (State.reset.withFetchWord 8 0x85))
      (fun t => t.trace == [.crWrite 0x85#8, .drWrite 0x00#8] && t.cr == nacked && t.outcome == none) = true ∧
    after (step (State.reset.withFetchWord 8 0x00)) (fun t => t.trace == [.crWrite 0x00#8]) = true := by decide

/-! ### Witnesses: the hypotheses of each obligation are met together -/
/-- A call that waits on an armed controller. -/
def waiting (m : Mode) (bytes : List Byte) (c : Nat) (agenda : List Move) : State :=
  { start with
    mode := some m, buf := .ofBytes bytes, len := some bytes.length, cursor := some c, cr := rearmed, phase := .wait
    agenda := agenda }

/-- A move of another agent for the gaps. -/
def someGaps : List (List EnvMove) := [[.signal, .bus 0x80#8 (some 0x41#8)], [.prescaler 0x03#8]]

theorem witness_EncodedWordDecodesBack :
    Params.default.wf = true ∧ (Instr.txStLastData).wf .default = true ∧ (Instr.rxUnrecognized 0xFC#8).wf .default = true ∧
    encode .default .txStLastData = some (.status .respond, [0xC8#8]) ∧
    encode .default (.rxUnrecognized 0xFC#8) = some (.status .receive, [0xFC#8]) ∧
    encode .default .cwNack = some (.control, [0x85#8]) ∧
    encode .default (.arWord 0x7F#7 true) = some (.address, [0xFF#8]) := by decide

/-- The named event with the highest code, and an unnamed byte. -/
theorem witness_PrescalerBitsDoNotChangeTheRow :
    Params.default.wf = true ∧ (Event.stLastData).code .default = some 0xC8#8 ∧
    0xC8#8 &&& Params.default.prescalerMask = 0#8 ∧ (Event.unrecognized 0xFC#8).code .default = some 0xFC#8 ∧
    0xFC#8 &&& Params.default.prescalerMask = 0#8 ∧ 0xFC#8 ∉ Params.default.codes.toList := by decide

/-- One witness for each of the statements whose hypotheses are a legal configuration (3, 6, 7, 43, 58) or a legal
configuration of a state (31, 32, 34 to 36, 13 in every phase), with gaps and without. -/
theorem witness_LegalConfiguration :
    Params.default.wf = true ∧ start.cfg.wf = true ∧ start.gaps = [] ∧
    ({ start with gaps := someGaps } : State).cfg.wf = true ∧ ({ start with gaps := someGaps } : State).gaps ≠ [] := by
  decide

theorem witness_OutcomePortReadsBack :
    (CallOutcome.okReceive = .okReceive → Mode.receive = .receive) ∧
    (∀ n, CallOutcome.okRespond 2 = .okRespond n → Mode.respond = .respond) ∧
    (∀ n, CallOutcome.err .bufferOverflow = .okRespond n → Mode.receive = .respond) := by
  refine ⟨fun _ => rfl, fun _ _ => rfl, fun n h => by cases h⟩

theorem witness_ConfigureWritesTheAddressAndDisarms :
    start.cfg.wf = true ∧ start.phase = .idle ∧ start.gaps = [] ∧
    ({ start with gaps := someGaps } : State).phase = .idle := by decide

theorem witness_ConfigureIsIdempotent :
    ∃ t u v, start.cfg.wf = true ∧ start.gaps = [] ∧ exec (.configure true) start = .next t ∧
      exec (.configure true) t = .next u ∧ exec (.configure false) t = .next v := by
  exact ⟨_, _, _, by decide, rfl, rfl, rfl, rfl⟩

theorem witness_ArmArmsInOneWrite :
    start.cfg.wf = true ∧ start.phase = .idle ∧ (acting .receive four 0 0x60#8 0#8).cfg.wf = true := by decide

theorem witness_NackAndDisarmWriteTheirWords :
    ∃ t u, start.cfg.wf = true ∧ exec .disarmAndReset start = .next t ∧ exec .disarmAndReset t = .next u :=
  ⟨_, _, by decide, rfl, rfl⟩

theorem witness_OperationsDuringACallAreRefused :
    (waiting .receive four 0 [.caller .arm []]).phase ≠ .idle ∧ (waiting .receive four 0 [.caller .arm []]).cfg.wf = true ∧
    (waiting .receive four 0 [.caller .arm []]).agenda = [.caller .arm []] ∧
    (acting .receive four 0 0x60#8 0#8).phase ≠ .idle := by decide

/-- Each clause: requested; not pending; not enabled. -/
theorem witness_SignalSetsOnlyTheFlagWhileRequested :
    start.cfg.irqKind = .level ∧ start.cfg.globalIe = true ∧
    (pendingControl.int = true ∧ pendingControl.intEn = true) ∧ rearmed.int = false ∧
    ((disarmed true).int = true ∧ (disarmed true).intEn = false) := by decide

/-- The machine of R241 with the pulse request. -/
def pulsing : State := { start with cfg := { irqKind := .pulse }, cr := pendingControl, edge := true }

theorem witness_PulseSignalRunsOnce :
    pulsing.cfg.irqKind = .pulse ∧ pulsing.cfg.globalIe = true ∧ pulsing.cr.intEn = true ∧ pulsing.edge = true := by decide

/-- Each clause: enabled, with a byte and, not a data status, without one; switched off; an event pending; a data status
without a byte. -/
theorem witness_BusEventFollowsItsContract :
    let m : List Move := [.env (.bus 0x80#8 (some 0x41#8))]
    start.cfg.wf = true ∧ start.cfg.irqKind = .level ∧ ({ start with agenda := m } : State).agenda = m ∧
    (rearmed.en = true ∧ rearmed.int = false) ∧ (disarmed false).en = false ∧ pendingControl.int = true ∧
    isDataStatus .default 0x80#8 = true ∧ isDataStatus .default 0x60#8 = false := by decide

/-- The longest buffer of a one-bit cursor, and the first one too long. -/
theorem witness_CallsStartAtCursorZero :
    let s : State := { start with cfg := oneBitCursor }
    s.phase = .idle ∧ [5#8].length ≤ 2 ^ s.cfg.cursorBits - 1 ∧ ([] : List Byte).length ≤ 2 ^ s.cfg.cursorBits - 1 := by
  decide
theorem witness_OverlongBufferIsRefused :
    let s : State := { start with cfg := oneBitCursor }
    s.phase = .idle ∧ 2 ^ s.cfg.cursorBits ≤ [5#8, 6#8].length := by decide

/-- Both values of the flag. -/
theorem witness_WaitStepObservesAndSpins :
    let s := waiting .receive four 0 [.engine someGaps]
    s.cfg.wf = true ∧ s.phase = .wait ∧ s.agenda = .engine someGaps :: [] ∧ s.flag = false ∧
    ({ s with flag := true } : State).flag = true := by decide

theorem witness_SnapshotStepReadsAndDecodes :
    let s := { waiting .receive four 0 [.engine []] with phase := .snapshot }
    s.cfg.wf = true ∧ s.phase = .snapshot ∧ s.agenda = .engine [] :: [] := by decide

theorem witness_ActStepRunsTheDecodedRow :
    let s := acting .respond four 1 0xBB#8 0#8
    s.cfg.wf = true ∧ s.phase = .act ∧ s.agenda = .engine [] :: [] ∧ s.mode = some .respond ∧ s.snapshot = some 0xB8#8 ∧
    s.event = some (decodeEvent s.cfg 0xB8#8) ∧ snapshotOf s.cfg 0xB8#8 = 0xB8#8 ∧
    reads (.status .respond) 0xB8#8 .txStDataAck = true := by decide

/-- The row of that step runs; a row of a state with no cursor faults. -/
theorem witness_ActStepRunsTheDecodedRow_clauses :
    (∃ t, exec .txStDataAck { acting .respond four 1 0xB8#8 0#8 with agenda := [], gaps := [] } = .next t) ∧
    exec .txStDataAck { acting .respond four 1 0xB8#8 0#8 with cursor := none } = .fault (.noValue .cursor) :=
  ⟨⟨_, rfl⟩, rfl⟩

/-- With no outcome, and with one. -/
theorem witness_ClearStepClearsAndContinuesOrEnds :
    let s := { waiting .receive four 0 [.engine []] with phase := .clear }
    s.cfg.wf = true ∧ s.phase = .clear ∧ s.agenda = .engine [] :: [] ∧ s.outcome = none ∧
    ({ s with outcome := some .okReceive } : State).outcome ≠ none := by decide

theorem witness_DoneStepReturnsToTheCaller :
    let s := { waiting .respond four 4 [.engine []] with phase := .done, outcome := some (.okRespond 4) }
    s.cfg.wf = true ∧ s.phase = .done ∧ s.agenda = .engine [] :: [] ∧ s.outcome = some (.okRespond 4) ∧
    s.len = some 4 := by decide

theorem witness_CallerAndInterruptStepsAreExec :
    start.cfg.wf = true ∧ ({ start with agenda := [.env .signal] } : State).agenda = .env .signal :: [] ∧
    ({ start with agenda := [.caller .arm []] } : State).agenda = .caller .arm [] :: [] := by decide

/-- Each clause: a request the flag does not show; no request; the flag shown. -/
theorem witness_EmptyAgendaServesTheRequestOrRunsTheEngine :
    let s := { waiting .receive four 0 [] with cr := pendingControl }
    s.cfg.wf = true ∧ s.agenda = [] ∧ (irq s = true ∧ s.flag = false) ∧ irq start = false ∧
    ({ s with flag := true } : State).flag = true := by decide

/-- The last place of the buffer, and the full buffer, the empty one included. -/
theorem witness_ReceiveDataRowsStoreOrOverflow :
    let s := acting .receive four 3 0x80#8 0x41#8
    let f := acting .receive four 4 0x80#8 0x41#8
    let e := acting .receive [] 0 0x80#8 0x41#8
    s.cfg.wf = true ∧ s.buf.wf = true ∧ s.cursor = some 3 ∧ s.len = some 4 ∧
    f.buf.wf = true ∧ f.cursor = some 4 ∧ f.len = some 4 ∧ e.cursor = some 0 ∧ e.len = some 0 := by decide

theorem witness_DefaultRowsReportTheSnapshot :
    let s := acting .respond four 0 0xA2#8 0#8
    s.cfg.wf = true ∧ s.snapshot = some 0xA0#8 := by decide

/-- The last byte, the buffer used up, the empty buffer; the event pending, and not. -/
theorem witness_RespondRows :
    let s := acting .respond four 3 0xB8#8 0#8
    let f := acting .respond four 4 0xA8#8 0#8
    let e := acting .respond [] 0 0xA8#8 0#8
    s.cfg.wf = true ∧ s.cursor = some 3 ∧ s.len = some 4 ∧ f.cursor = some 4 ∧ f.len = some 4 ∧
    e.cursor = some 0 ∧ e.len = some 0 ∧ s.gaps = [] ∧ s.cr.int = true ∧
    ({ s with gaps := someGaps } : State).cr.int = true := by decide

/-- Also the witness of `RespondEndRowsReturnTheCount`. -/
theorem witness_EveryRowRaisesTheOutcomeOfTheTable :
    let s := acting .respond four 4 0xB8#8 0#8
    s.cfg.wf = true ∧ s.mode = some .respond ∧ s.cursor = some 4 ∧ s.len = some 4 ∧ 4 ≤ 4 ∧ s.snapshot = some 0xB8#8 ∧
    s.outcome = none ∧ outcomeTable .respond .stDataAck 4 4 0xB8#8 ≠ none ∧
    outcomeTable .respond .stDataAck 3 4 0xB8#8 = none := by decide

theorem witness_InterleavingDoesNotChangeARow :
    ∃ t, start.cfg.wf = true ∧
      exec (rowInstr .receive .srDataAck) { acting .receive four 1 0x80#8 0x41#8 with gaps := someGaps } = .next t :=
  ⟨_, by decide, rfl⟩

/-- The invariant in the middle of a call, one event pending and the flag set. -/
theorem witness_Inv :
    Inv { waiting .receive four 1 [.engine [], .engine [], .engine [], .engine []] with flag := true } := by
  constructor <;> first
    | decide
    | exact fun _ => ⟨.receive, 1, 4, by decide⟩
    | simp [waiting, start, State.boot]

/-- The second clause of `EveryStepKeepsTheInvariant`: a data row about to read the byte that its event delivered. -/
theorem witness_Sourced :
    let s := { acting .receive four 1 0x80#8 0x41#8 with trace := [.srRead 0x80#8, .busEvent 0x80#8 (some 0x41#8)] }
    Sourced s ∧ ∃ t, step s = .next t ∧ t.trace.any (· == .drRead 0x41#8) = true :=
  ⟨⟨by decide, by decide, by decide, by decide⟩, _, rfl, by decide⟩

/-- `EveryStepKeepsTheInvariant`, `NoStepFaultsFromTheInvariant` and `OneEventIsHandledInOrder` start there. -/
theorem witness_StepFromTheInvariant :
    let s := { waiting .receive four 1 [.engine [], .engine [], .engine [], .engine []] with flag := true }
    (∃ t, step s = .next t) ∧ s.phase = .wait ∧ s.flag = true ∧
    s.agenda = .engine [] :: .engine [] :: .engine [] :: .engine [] :: [] :=
  ⟨⟨_, rfl⟩, rfl, rfl, rfl⟩

theorem witness_WaitIsLeftOnlyOnATrueFlag :
    let s := { waiting .receive four 1 [.engine []] with flag := true }
    after (step s) (fun t => t.phase != .wait) = true ∧ s.phase = .wait := by decide

theorem witness_RaisingAnOutcomeDisarms :
    let s := acting .receive four 1 0xA0#8 0#8
    after (step s) (fun t => t.outcome != none) = true ∧ s.outcome = none := by decide

/-- Each clause: `signal()` sets the flag; CLEAR clears it. -/
theorem witness_FlagIsSetBySignalAndClearedByClear :
    let s := { waiting .receive four 1 [.env .signal] with cr := pendingControl }
    let c := { waiting .receive four 1 [.engine []] with phase := .clear, flag := true }
    (s.flag = false ∧ after (step s) (fun t => t.flag) = true) ∧
    (c.flag = true ∧ after (step c) (fun t => !t.flag) = true) := by decide

/-- Also the witness of `PhaseMovesOnlyToItsSuccessors`; both modes, one event that is not `ST_SLA_ACK`. -/
theorem witness_StepsInACall :
    let s := acting .receive four 1 0x80#8 0x41#8
    let r := acting .respond four 1 0xB8#8 0#8
    after (step s) (fun t => t.phase != .idle) = true ∧ s.phase ≠ .idle ∧ s.mode = some .receive ∧
    s.event ≠ some .stSlaAck ∧ after (step r) (fun t => t.phase != .idle) = true ∧ r.phase ≠ .idle ∧
    r.mode = some .respond := by decide

/-- A bare word to each of the two registers; in IDLE and in a call. -/
theorem witness_EngineOperationsAreRefusedFromTheCaller :
    let s := { start with agenda := [.caller .cwDisarmed []] }
    let r := waiting .receive four 0 [.caller (.arWord 0x26#7 true) []]
    s.cfg.wf = true ∧ s.agenda = .caller .cwDisarmed [] :: [] ∧ r.cfg.wf = true ∧
    r.agenda = .caller (.arWord 0x26#7 true) [] :: [] := by decide

/-- The caller's `arm()`, and a move after which the controller stays disarmed. -/
theorem witness_OnlyArmEndsTheDisarmedState :
    let s := { start with agenda := [.caller .arm []], cr := disarmed true }
    let r := { start with agenda := [.env .signal], cr := disarmed true }
    (after (step s) (fun t => !isDisarmed t.cr && !t.flag) = true ∧ s.phase = .idle ∧ isDisarmed s.cr = true) ∧
    (after (step r) (fun t => isDisarmed t.cr) = true ∧ isDisarmed r.cr = true ∧ r.flag = false) := by decide

theorem witness_UnarmedCallNeverReturns :
    let s := { waiting .receive four 0 [.env .signal, .env (.bus 0x60#8 none), .engine []] with cr := disarmed true }
    s.cfg.wf = true ∧ s.phase = .wait ∧ s.flag = false ∧ isDisarmed s.cr = true ∧
    ∀ m ∈ s.agenda, ∀ i gs, m ≠ .caller i gs := by
  refine ⟨by decide, rfl, rfl, rfl, ?_⟩
  simp [waiting]

theorem witness_LevelRequestSurvivesTheClear :
    let s := { waiting .receive four 0 [.engine []] with phase := .clear, flag := true, cr := pendingControl }
    s.cfg.wf = true ∧ s.cfg.irqKind = .level ∧ s.cfg.globalIe = true ∧ s.phase = .clear ∧ s.outcome = none ∧
    s.cr.int = true ∧ s.cr.intEn = true ∧ s.agenda = [.engine []] := by decide

theorem witness_PulseRequestIsLostByTheClear :
    let s := { pulsing with phase := .clear, flag := true, edge := false, agenda := [.engine []] }
    s.cfg.wf = true ∧ s.cfg.irqKind = .pulse ∧ s.phase = .clear ∧ s.outcome = none ∧ s.cr.int = true ∧ s.edge = false ∧
    s.agenda = [.engine []] := by decide

/-- Program P1 from its first event on, one byte already stored and the data bytes filling the buffer to its end. -/
def p1Items : List BusItem :=
  [(0x60#8, none), (0x80#8, some 0x41#8), (0x90#8, some 0x42#8), (0x80#8, some 0x43#8)]

theorem witness_ReceiveCallStoresTheBytesInOrder :
    let s := waiting .receive four 1 ((p1Items ++ [(0xA0#8, none)]).flatMap itemMoves)
    Waiting .receive 1 4 s ∧ (∀ x ∈ p1Items, receiveContinues s.cfg x = true) ∧
    receiveEnds s.cfg (0xA0#8, none) = true ∧ receiveEnds s.cfg (0x88#8, none) = true ∧
    1 + (p1Items.filterMap (acceptedByte s.cfg)).length ≤ 4 ∧
    s.agenda = (p1Items ++ [(0xA0#8, none)]).flatMap itemMoves ++ [] := by
  refine ⟨?_, List.all_eq_true.1 rfl, rfl, rfl, by decide, rfl⟩
  exact ⟨by decide, rfl, rfl, rfl, rfl, rfl, rfl, rfl, by decide, rfl, rfl, rfl, rfl⟩

/-- Program P2 with an ending NACK, the loads using the buffer up. -/
def p2Items : List BusItem := [(0xA8#8, none), (0xB8#8, none)]

theorem witness_RespondCallOffersTheBytesInOrder :
    let s := waiting .respond [0x0A#8, 0x14#8] 0 ((p2Items ++ [(0xC0#8, none)]).flatMap itemMoves)
    Waiting .respond 0 2 s ∧ (∀ x ∈ p2Items, respondLoads s.cfg x = true) ∧
    respondEnds s.cfg (0xC0#8, none) = true ∧ respondEnds s.cfg (0xC8#8, none) = true ∧
    0 + p2Items.length ≤ 2 ∧ s.agenda = (p2Items ++ [(0xC0#8, none)]).flatMap itemMoves ++ [] := by
  refine ⟨?_, List.all_eq_true.1 rfl, rfl, rfl, by decide, rfl⟩
  exact ⟨by decide, rfl, rfl, rfl, rfl, rfl, rfl, rfl, by decide, rfl, rfl, rfl, rfl⟩

end Sys2Proof.Tests
end

section
/-! What a row of the transition tables keeps of the invariant: the control bits, the buffer with its cursor, the outcome,
the pulse latch, the accesses it issues. Each is one case split over the shapes of a row's next state (`RowNext`). -/

namespace Sys2Proof.Machine

/-! ### Control bits and accesses -/

/-- R33: each of the five enables is 0. -/
theorem isDisarmed_iff (c : Control) : isDisarmed c = true ↔
    c.ackEn = false ∧ c.en = false ∧ c.intEn = false ∧ c.start = false ∧ c.stop = false := by
  simp [isDisarmed, and_assoc]

/-- R33, R76: what the invariant says of `CR` holds after each of the three command words. -/
theorem control_bits_of_command {c : Control} (h : c = rearmed ∨ c = nacked ∨ isDisarmed c = true) :
    (c.start = false ∧ c.stop = false) ∧ c.intEn = c.en ∧ (c.ackEn = true → c.en = true) := by
  rcases h with rfl | rfl | h
  · decide
  · decide
  · obtain ⟨hack, hen, hint, hstart, hstop⟩ := (isDisarmed_iff c).1 h
    simp [hack, hen, hint, hstart, hstop]

/-- `Disarmed` does not read `INT` (R33), so another agent does not change it. -/
@[simp] theorem isDisarmed_envStep (e : EnvMove) (s : State) : isDisarmed (envStep e s).cr = isDisarmed s.cr := by
  simp [isDisarmed]

theorem enables_of_isDisarmed {c : Control} (h : isDisarmed c = true) : c.en = false ∧ c.intEn = false := by
  obtain ⟨-, hen, hint, -, -⟩ := (isDisarmed_iff c).1 h
  exact ⟨hen, hint⟩

/-- R111 restricts the block's own accesses only. -/
theorem ofBlock_of_not_isOwn {p : Params} {addr : Addr7} {a : Access} (h : a.isOwn = false) : a.ofBlock p addr := by
  cases a <;> simp_all [Access.isOwn, Access.ofBlock]

/-- R111 for a whole record is R111 for the block's own part of it. -/
theorem accesses_iff_ownTrace (s : State) (p : Params) (addr : Addr7) :
    (∀ a ∈ s.trace, a.ofBlock p addr) ↔ ∀ a ∈ ownTrace s, a.ofBlock p addr := by
  refine ⟨fun h a ha => h a (List.mem_filter.1 ha).1, fun h a ha => ?_⟩
  cases hown : a.isOwn with
  | true => exact h a (List.mem_filter.2 ⟨ha, hown⟩)
  | false => exact ofBlock_of_not_isOwn hown

/-! ### Rows -/

/-- R142, R52: a row leaves a cursor within the buffer and a canonical buffer within its length. -/
theorem RowNext.buffer {m : Mode} {e : Event} {s t : State} {c l : Nat} (h : RowNext m e s t) (hc : s.cursor = some c)
    (hl : s.len = some l) (hcl : c ≤ l) (hw : s.buf.wf = true) (hb : s.buf.below l = true) :
    ∃ c', t.cursor = some c' ∧ c' ≤ l ∧ t.buf.wf = true ∧ t.buf.below l = true := by
  cases h with
  | store i n _ _ hi hn hlt =>
    cases hc.symm.trans hi
    cases hl.symm.trans hn
    obtain ⟨-, hcur, -, hbuf, -⟩ := stored_frame c s
    exact ⟨c + 1, hcur, hlt, by rw [hbuf]; exact Memory.write_wf hw, by rw [hbuf]; exact Memory.write_below hlt hb⟩
  | load i n _ hi hn hlt =>
    cases hc.symm.trans hi
    cases hl.symm.trans hn
    obtain ⟨-, hcur, -, hbuf, -⟩ := loaded_frame c s
    exact ⟨c + 1, hcur, hlt, by rwa [hbuf], by rwa [hbuf]⟩
  | _ => exact ⟨c, by simp [nackThenRaise, padByteNack, hc], hcl, by simpa [nackThenRaise, padByteNack] using ⟨hw, hb⟩⟩

/-- R178, R195: the outcome that a row raises fits the call's mode and the cursor that the row leaves. -/
theorem RowNext.outcome_fits {m : Mode} {e : Event} {s t : State} {o : CallOutcome} {c : Nat} (h : RowNext m e s t)
    (hs : s.outcome = none) (ho : t.outcome = some o) (hc : t.cursor = some c) : outcomeFits m c o = true := by
  cases h with
  | rearm => simp [hs] at ho
  | store i n =>
    obtain ⟨-, -, hsame, -, -⟩ := stored_frame i s
    simp [hsame, hs] at ho
  | load i n =>
    obtain ⟨-, -, hsame, -, -⟩ := loaded_frame i s
    simp [hsame, hs] at ho
  | pad i =>
    obtain ⟨-, -, hsame, -, -⟩ := padByteNack_frame s
    simp [hsame, hs] at ho
  | arbitration => cases ho; rfl
  | readInReceive => cases ho; rfl
  | writeInRespond => cases ho; rfl
  | unknown v => cases ho; rfl
  | overflow i hm => cases ho; simp [outcomeFits, hm]
  | ended hm => cases ho; simp [outcomeFits, hm]
  | padAndEnd i hm hi =>
    cases ho
    have hic : i = c := by simpa [padByteNack, hi] using hc
    simp [outcomeFits, hm, hic]
  | counted i hm hi =>
    cases ho
    have hic : i = c := by simpa [hi] using hc
    simp [outcomeFits, hm, hic]

/-- D9: under the level kind no row latches a pulse. -/
theorem RowNext.edge_of_level {m : Mode} {e : Event} {s t : State} (h : RowNext m e s t)
    (hl : s.cfg.irqKind = .level) : t.edge = s.edge := by
  cases h with
  | _ => simp [nackThenRaise, stored, loaded, padByteNack, gap_level, hl]

/-- R111: a row writes only command words to `CR` and nothing to `AR`. -/
theorem RowNext.accesses {m : Mode} {e : Event} {s t : State} (h : RowNext m e s t)
    (ha : ∀ a ∈ ownTrace s, a.ofBlock s.cfg s.addr7) : ∀ a ∈ ownTrace t, a.ofBlock s.cfg s.addr7 := by
  cases h with
  | store c l =>
    obtain ⟨-, -, -, -, htrace⟩ := stored_frame c s
    simpa [htrace, Access.ofBlock] using ha
  | load c l =>
    obtain ⟨-, -, -, -, htrace⟩ := loaded_frame c s
    simpa [htrace, Access.ofBlock] using ha
  | _ => simpa [nackThenRaise, padByteNack, Access.ofBlock] using ha

end Sys2Proof.Machine
end

section
/-! The invariant (R22, R23, R111, R136, R139, R142, R178, R195) is kept by every move of every agent. -/

namespace Sys2Proof.Machine

/-- The schedule is no part of the invariant. -/
theorem Inv.schedule {s : State} (h : Inv s) (agenda : List Move) (gs : List (List EnvMove)) :
    Inv { s with agenda := agenda, gaps := gs } := { h with }

/-! ### The other agents -/

/-- R139: in DONE the controller is disarmed, so `signal()` is no step and the flag stays clear. -/
theorem Inv.envStep {s : State} (h : Inv s) (e : EnvMove) : Inv (envStep e s) where
  cfgOk := by simpa using h.cfgOk
  addr := by simpa using h.addr
  bufWf := by simpa using h.bufWf
  noMaster := by simpa using h.noMaster
  enables := by simpa using h.enables
  outside := by simpa using h.outside
  inside := by simpa using h.inside
  decoded := by simpa using h.decoded
  undecided := by simpa using h.undecided
  decided := by simpa using h.decided
  returning := by
    intro hp
    rw [envStep_phase] at hp
    obtain ⟨ho, hf⟩ := h.returning hp
    obtain ⟨o, ho'⟩ := Option.ne_none_iff_exists'.1 ho
    obtain ⟨hen, hint⟩ := enables_of_isDisarmed (h.decided (.inr hp) o ho').1
    obtain ⟨-, hflag, -, -⟩ := envStep_disarmed e hen hint
    exact ⟨by simpa using ho, hflag.trans hf⟩
  neverNotImplemented := by simpa using h.neverNotImplemented
  levelKeepsNoPulse := by
    intro hl
    rw [envStep_cfg] at hl
    exact (envStep_level e hl).trans (h.levelKeepsNoPulse hl)
  deliveries := by simpa using h.deliveries
  accesses := by
    rw [accesses_iff_ownTrace, (envStep_record e s).ownTrace, ← accesses_iff_ownTrace]
    simpa using h.accesses

theorem Inv.envSteps {s : State} (h : Inv s) (es : List EnvMove) : Inv (envSteps es s) := by
  induction es generalizing s with
  | nil => exact h
  | cons e es ih => exact ih (h.envStep e)

theorem Inv.gap {s : State} (h : Inv s) : Inv (gap s) := by
  unfold Machine.gap
  split
  · exact h
  · exact (h.schedule s.agenda _).envSteps _

/-! ### The caller -/

/-- A command word that the caller writes in IDLE, where no outcome is waiting to be returned. -/
theorem Inv.writeCommand_idle {s : State} (h : Inv s) (hp : s.phase = .idle) {v : Byte}
    (hv : v = cwArmWord s.cfg ∨ v = cwDisarmedWord s.cfg) : Inv (ioWriteCr v s) := by
  have hbits := control_bits_of_command (c := (ioWriteCr v s).cr) (by
    rcases hv with rfl | rfl
    · exact .inl (after_arm h.cfgOk _)
    · exact .inr (.inr (by rw [ioWriteCr_cr, after_disarm h.cfgOk]; exact isDisarmed_disarmed _)))
  have hv' : Access.ofBlock s.cfg s.addr7 (.crWrite v) := by
    rcases hv with rfl | rfl <;> simp [Access.ofBlock]
  exact { h with
    noMaster := hbits.1
    enables := hbits.2
    decided := by simp [hp]
    accesses := List.forall_mem_cons.2 ⟨hv', h.accesses⟩ }

/-- R29, R77: the address word of `addr7`, written to `AR`. -/
theorem Inv.writeAddress {s : State} (h : Inv s) (g : Bool) : Inv (ioWriteAr (addressWord s.cfg s.addr7 g) s) :=
  { h with
    accesses := List.forall_mem_cons.2 ⟨by cases g <;> simp [Access.ofBlock], h.accesses⟩ }

theorem Inv.callerNext {op : Instr} {s t : State} (h : Inv s) (ht : CallerNext op s t) : Inv t := by
  cases ht with
  | call m b _ hp hb ht =>
    subst ht
    exact { h with
      bufWf := Memory.ofBytes_wf b
      outside := by simp
      inside := fun _ => ⟨m, 0, b.length, rfl, rfl, rfl, Nat.zero_le _, hb, Memory.ofBytes_below b⟩
      decoded := by simp
      undecided := fun _ => rfl
      decided := by simp
      returning := by simp
      neverNotImplemented := by simp }
  | configure g _ hp ht =>
    subst ht
    exact (h.writeAddress g).gap.writeCommand_idle (by simpa using hp) (.inr rfl)
  | arm _ hp ht =>
    subst ht
    exact h.writeCommand_idle hp (.inl rfl)

/-! ### The engine -/

/-- R134, R139: a row and the end of ACT. -/
theorem Inv.rowNext {m : Mode} {e : Event} {s t : State} (h : Inv s) (hp : s.phase = .act) (hm : s.mode = some m)
    (hr : RowNext m e s t) : Inv { t with phase := .clear } := by
  obtain ⟨m', c, l, hm', hc, hl, hcl, hmax, hbelow⟩ := h.inside (by simp [hp])
  obtain ⟨c', hc', hcl', hwf', hbelow'⟩ := hr.buffer hc hl hcl h.bufWf hbelow
  have hf := hr.frame
  have hs := h.undecided (.inr (.inr hp))
  have hcontrol := hr.control h.cfgOk
  have hbits := control_bits_of_command (c := t.cr) (by tauto)
  have hfits : ∀ o, t.outcome = some o → outcomeFits m c' o = true := fun o ho => hr.outcome_fits hs ho hc'
  exact {
    cfgOk := by simpa [hf.cfg] using h.cfgOk
    addr := by simpa [hf.cfg, hf.addr7] using h.addr
    bufWf := hwf'
    noMaster := hbits.1
    enables := hbits.2
    outside := by simp
    inside := fun _ => ⟨m, c', l, hf.mode.trans hm, hc', hf.len.trans hl, hcl', by simpa [hf.cfg] using hmax, hbelow'⟩
    decoded := by simpa [hf.cfg, hf.snapshot, hf.event] using h.decoded (.inl hp)
    undecided := by simp
    decided := by
      intro _ o ho
      have hdis : isDisarmed t.cr = true := by
        rcases hcontrol with ⟨hsame, -⟩ | ⟨-, hdis⟩
        · simp [show t.outcome = some o from ho, hs] at hsame
        · exact hdis
      refine ⟨hdis, fun m₂ c₂ hm₂ hc₂ => ?_⟩
      cases (hf.mode.trans hm).symm.trans hm₂
      cases hc'.symm.trans hc₂
      exact hfits o ho
    returning := by simp
    neverNotImplemented := fun ho => by simpa [outcomeFits] using hfits _ ho
    levelKeepsNoPulse := fun hk => by
      have hk' : s.cfg.irqKind = .level := by rw [← hf.cfg]; exact hk
      exact (hr.edge_of_level hk').trans (h.levelKeepsNoPulse hk')
    deliveries := by simpa [hf.delivered] using h.deliveries
    accesses := by
      have := (accesses_iff_ownTrace t s.cfg s.addr7).2 (hr.accesses ((accesses_iff_ownTrace s _ _).1 h.accesses))
      simpa [hf.cfg, hf.addr7] using this }

/-- R136, R178: the record handed over at the return is legal. -/
theorem Inv.delivery_legal {s : State} {o : CallOutcome} {l : Nat} (h : Inv s) (hp : s.phase = .done)
    (ho : s.outcome = some o) (hl : s.len = some l) : Delivery.legal { outcome := o, buf := s.buf, len := l } := by
  obtain ⟨m, c, l', hm, hc, hl', hcl, -, -⟩ := h.inside (by simp [hp])
  cases hl.symm.trans hl'
  have hfits := (h.decided (.inr hp) o ho).2 m c hm hc
  refine ⟨h.bufWf, fun hne => h.neverNotImplemented (by rw [ho]; exact congrArg some hne), ?_⟩
  rintro n rfl
  simp only [outcomeFits, Bool.and_eq_true, beq_iff_eq] at hfits
  exact hfits.2 ▸ hcl

theorem Inv.engineNext {s t : State} (h : Inv s) (ht : EngineNext s t) : Inv t := by
  cases ht with
  | idle _ ht => exact ht ▸ h
  | wait hp ht =>
    subst ht
    have hin := h.inside (by simp [hp])
    have ho := h.undecided (.inl hp)
    cases hf : s.flag with
    | _ => exact { h with
        outside := by simp
        inside := fun _ => hin
        decoded := by simp
        undecided := fun _ => ho
        decided := by simp
        returning := by simp
        accesses := List.forall_mem_cons.2 ⟨trivial, h.accesses⟩ }
  | snapshot hp ht =>
    subst ht
    exact { h with
      outside := by simp
      inside := fun _ => h.inside (by simp [hp])
      decoded := fun _ => ⟨_, rfl, snapshotOf_snapshotOf _ _, rfl⟩
      undecided := fun _ => h.undecided (.inr (.inl hp))
      decided := by simp
      returning := by simp
      accesses := List.forall_mem_cons.2 ⟨trivial, h.accesses⟩ }
  | act m e u hp hm _ hr ht =>
    subst ht
    exact h.rowNext hp hm hr
  | clear hp ht =>
    subst ht
    have hin := h.inside (by simp [hp])
    have hdec := h.decided (.inl hp)
    by_cases ho : s.outcome = none
    · exact { h with
        outside := by simp [ho]
        inside := fun _ => hin
        decoded := by simp [ho]
        undecided := fun _ => ho
        decided := by simp [ho]
        returning := by simp [ho]
        accesses := List.forall_mem_cons.2 ⟨trivial, h.accesses⟩ }
    · exact { h with
        outside := by simp [ho]
        inside := fun _ => hin
        decoded := by simp [ho]
        undecided := by simp [ho]
        decided := fun _ => hdec
        returning := fun _ => ⟨ho, rfl⟩
        accesses := List.forall_mem_cons.2 ⟨trivial, h.accesses⟩ }
  | done o l hp ho hl ht =>
    subst ht
    exact { h with
      outside := fun _ => ⟨rfl, rfl, rfl, rfl, rfl⟩
      inside := by simp
      decoded := by simp
      undecided := by simp
      decided := by simp
      returning := by simp
      deliveries := List.forall_mem_cons.2 ⟨h.delivery_legal hp ho hl, h.deliveries⟩ }

/-- Every step keeps the invariant, whichever agent moves. -/
theorem Inv.step {s t : State} (h : Inv s) (ht : step s = .next t) : Inv t := by
  cases step_cases ht with
  | engine u gs rest hu hstep => exact (hu ▸ h.schedule rest gs : Inv u).engineNext (engineStep_cases hstep)
  | caller u op gs rest _ hu hstep => exact (hu ▸ h.schedule rest gs : Inv u).callerNext (callerStep_cases hstep)
  | env u e rest hu hstep => exact hstep ▸ (hu ▸ h.schedule rest s.gaps : Inv u).envStep e

end Sys2Proof.Machine
end

section
/-! R222: every step keeps that `SR` is read only after a `BusEvent` and `DR` only after a data `BusEvent`. Each shared
operation keeps `Sourced`; the rows and the phases are put together from them. -/

namespace Sys2Proof.Machine

/-- The schedule is no part of `Sourced`. -/
theorem Sourced.schedule {s : State} (h : Sourced s) (agenda : List Move) (gs : List (List EnvMove)) :
    Sourced { s with agenda := agenda, gaps := gs } := { h with }

/-- The cursor is no part of `Sourced`. -/
theorem Sourced.setCursor {s : State} (h : Sourced s) (c : Nat) : Sourced { s with cursor := some c } := { h with }

/-! ### Accesses -/

/-- An access in the record stays there. -/
theorem any_cons_of_any {f : Access → Bool} {a : Access} {before : List Access} (h : before.any f = true) :
    (a :: before).any f = true :=
  any_append_right (xs := [a]) h

theorem isEvent_of_isOwn {a : Access} (h : a.isOwn = true) : a.isEvent = false := by
  cases a <;> simp_all [Access.isOwn, Access.isEvent]

/-- Any access but a `BusEvent`, recorded when it has what it needs before it. -/
theorem Sourced.record {s : State} {a : Access} (h : Sourced s) (hev : a.isEvent = false)
    (ha : a.follows s.cfg s.trace = true) : Sourced (s.record a) where
  reads := by simpa [readsFollowEvents, ha] using h.reads
  status := fun hany hd => any_cons_of_any (h.status (by simpa [hev] using hany) hd)
  pending := fun hp => any_cons_of_any (h.pending hp)
  acting := fun hp he => any_cons_of_any (h.acting hp he)

/-- R55: a control write can only clear `INT`. -/
theorem Sourced.writeControl {s : State} (h : Sourced s) (v : Byte) : Sourced (ioWriteCr v s) :=
  Sourced.record (s := { s with cr := controlAfterWrite s.cr (s.cfg.control.fields v) })
    { h with
      pending := fun hp => h.pending (by
        simp only [controlAfterWrite, Bool.and_eq_true] at hp
        tauto) } rfl rfl

theorem Sourced.writeAddress {s : State} (h : Sourced s) (v : Byte) : Sourced (ioWriteAr v s) :=
  Sourced.record (s := { s with ar := v }) { h with } rfl rfl

theorem Sourced.writeData {s : State} (h : Sourced s) (v : Byte) : Sourced (ioWriteDr v s) :=
  Sourced.record (s := { s with dr := v }) { h with } rfl rfl

theorem Sourced.raise {s : State} (h : Sourced s) (o : CallOutcome) : Sourced (raise o s) :=
  { h.writeControl (cwDisarmedWord s.cfg) with }

/-! ### The other agents -/

theorem irq_pending {s : State} (h : irq s = true) : s.cr.int = true ∨ s.edge = true := by
  unfold irq at h
  split at h <;> simp_all

/-- What `signal()` makes visible was pending before. -/
theorem Sourced.signalStep {s : State} (h : Sourced s) : Sourced (signalStep s) := by
  unfold Machine.signalStep
  split
  · next hirq =>
    have hany : s.trace.any Access.isEvent = true := h.pending (by have := irq_pending hirq; tauto)
    exact Sourced.record (a := .signal) { h with pending := fun _ => hany } rfl rfl
  · exact h

/-- A bus event delivers the byte of a data status, which is what the record needs for the read of `DR`. -/
theorem Sourced.busEvent {s : State} (h : Sourced s) (v : Byte) (d : Option Byte) : Sourced (busEvent v d s) := by
  unfold Machine.busEvent
  split
  · next hen =>
    obtain ⟨-, hbus⟩ := (Bool.and_eq_true _ _).mp hen
    exact {
      reads := by simpa [State.record, readsFollowEvents, Access.follows] using h.reads
      status := by
        intro _ hd
        have hdata : isDataStatus s.cfg v = true := by simpa using hd
        simp_all [isBusEvent, Access.isDataEvent]
      pending := fun _ => by simp [Access.isEvent]
      acting := fun hp he => any_cons_of_any (h.acting hp he) }
  · exact h

/-- The prescaler bits are no part of the status (R34, R71). -/
theorem Sourced.setPrescaler {s : State} (h : Sourced s) (v : Byte) : Sourced (setPrescaler v s) :=
  { h with status := fun hany hd => h.status hany (by simpa using hd) }

theorem Sourced.envStep {s : State} (h : Sourced s) (e : EnvMove) : Sourced (envStep e s) := by
  cases e with
  | signal => exact h.signalStep
  | bus v d => exact h.busEvent v d
  | prescaler v => exact h.setPrescaler v

theorem Sourced.envSteps {s : State} (h : Sourced s) (es : List EnvMove) : Sourced (envSteps es s) := by
  induction es generalizing s with
  | nil => exact h
  | cons e es ih => exact ih (h.envStep e)

theorem Sourced.gap {s : State} (h : Sourced s) : Sourced (gap s) := by
  unfold Machine.gap
  split
  · exact h
  · exact (h.schedule s.agenda _).envSteps _

/-! ### Rows -/

theorem Sourced.nackThenRaise {s : State} (h : Sourced s) (o : CallOutcome) : Sourced (nackThenRaise o s) :=
  (h.writeControl _).gap.raise o

theorem Sourced.padByteNack {s : State} (h : Sourced s) : Sourced (padByteNack s) :=
  (h.writeData _).gap.writeControl _

/-- R35: the row that reads `DR` runs on a data event only. -/
theorem Sourced.stored {s : State} (h : Sourced s) (c : Nat) (hp : s.phase = .act)
    (he : s.event = some .srDataAck ∨ s.event = some .srGcallDataAck) : Sourced (stored c s) := by
  have hread : Sourced (Machine.gap (s.record (.drRead s.dr))) := (h.record (a := .drRead s.dr) rfl (h.acting hp he)).gap
  refine Sourced.writeControl (Sourced.gap (Sourced.record (a := .bufWrite c s.dr) ?_ rfl rfl)) _
  exact { hread with }

theorem Sourced.loaded {s : State} (h : Sourced s) (c : Nat) : Sourced (loaded c s) := by
  have hload : Sourced (ioWriteDr (s.buf.read c) (Machine.gap (s.record (.bufRead c (s.buf.read c))))) :=
    (h.record rfl rfl).gap.writeData _
  exact (hload.setCursor (c + 1)).gap.writeControl _

theorem Sourced.rowNext {m : Mode} {e : Event} {s t : State} (h : Sourced s) (hp : s.phase = .act)
    (he : s.event = some e) (hr : RowNext m e s t) : Sourced t := by
  cases hr with
  | rearm => exact h.writeControl _
  | arbitration => exact h.nackThenRaise _
  | store c _ _ hdata => exact h.stored c hp (by simpa [he] using hdata)
  | overflow => exact h.raise _
  | ended => exact h.raise _
  | readInReceive => exact (h.writeData _).gap.nackThenRaise _
  | writeInRespond => exact h.raise _
  | unknown => exact h.raise _
  | load c => exact h.loaded c
  | pad => exact h.padByteNack
  | padAndEnd => exact h.padByteNack.gap.raise _
  | counted => exact h.raise _

/-! ### The engine and the caller -/

/-- Entering a phase that reads neither `SR` nor `DR`. -/
theorem Sourced.enterPhase {s : State} (h : Sourced s) {p : Phase} (hs : p ≠ .snapshot) (ha : p ≠ .act) :
    Sourced { s with phase := p } :=
  { h with
    pending := fun hp => h.pending (by tauto)
    acting := fun hp => absurd hp ha }

theorem isDataStatus_of_event {p : Params} {v : Byte} (h : decodeEvent p (snapshotOf p v) = .srDataAck ∨
    decodeEvent p (snapshotOf p v) = .srGcallDataAck) : isDataStatus p v = true := by
  unfold isDataStatus
  rcases h with h | h <;> rw [h]

theorem Sourced.engineNext {s t : State} (h : Sourced s) (ht : EngineNext s t) : Sourced t := by
  cases ht with
  | idle _ ht => exact ht ▸ h
  | wait hp ht =>
    subst ht
    have hobs : Sourced (s.record (.flagRead s.flag)) := h.record rfl rfl
    cases hf : s.flag with
    | false => simpa [State.record, hf] using hobs.enterPhase (p := .wait) (by simp) (by simp)
    | true =>
      have hany := hobs.pending (.inl hf)
      exact hf ▸ { hobs with pending := fun _ => hany, acting := by simp [hf] }
  | snapshot hp ht =>
    subst ht
    have hany : s.trace.any Access.isEvent = true := h.pending (by simp [hp])
    have hread : Sourced (s.record (.srRead s.sr)) := h.record rfl hany
    exact { hread with
      pending := fun _ => any_cons_of_any hany
      acting := fun _ he => hread.status (any_cons_of_any hany)
        (isDataStatus_of_event (by simpa using he)) }
  | act m e u hp hm he hr ht =>
    subst ht
    exact (h.rowNext hp he hr).enterPhase (by simp) (by simp)
  | clear hp ht =>
    subst ht
    have hclear : Sourced (flagClear s) :=
      Sourced.record (s := { s with flag := false }) { h with pending := fun hp => h.pending (by simp_all) } rfl rfl
    exact hclear.enterPhase (by split <;> simp) (by split <;> simp)
  | done o l hp ho hl ht =>
    subst ht
    exact { h.enterPhase (p := .idle) (by simp) (by simp) with acting := by simp }

theorem Sourced.callerNext {op : Instr} {s t : State} (h : Sourced s) (ht : CallerNext op s t) : Sourced t := by
  cases ht with
  | call m b _ hp _ ht =>
    subst ht
    exact { h.enterPhase (p := .wait) (by simp) (by simp) with }
  | configure g _ hp ht =>
    subst ht
    exact (h.writeAddress _).gap.writeControl _
  | arm _ hp ht =>
    subst ht
    exact h.writeControl _

theorem Sourced.step {s t : State} (h : Sourced s) (ht : step s = .next t) : Sourced t := by
  cases step_cases ht with
  | engine u gs rest hu hstep => exact (hu ▸ h.schedule rest gs : Sourced u).engineNext (engineStep_cases hstep)
  | caller u op gs rest _ hu hstep => exact (hu ▸ h.schedule rest gs : Sourced u).callerNext (callerStep_cases hstep)
  | env u e rest hu hstep => exact hstep ▸ (hu ▸ h.schedule rest s.gaps : Sourced u).envStep e

/-- Settles O44: for each agent's move, `Inv.step` and `Sourced.step`. -/
theorem everyStepKeepsTheInvariant : Obligations.EveryStepKeepsTheInvariant :=
  ⟨fun _ _ => Inv.step, fun _ _ => Sourced.step⟩

end Sys2Proof.Machine
end

section
/-! R27, R52: from a state of the invariant every row and every engine step has a next state, and no other move can fault. -/

namespace Sys2Proof.Machine

/-! ### Rows -/

theorem storeByte_total {s : State} {c l : Nat} (hc : s.cursor = some c) (hl : s.len = some l) (hcl : c ≤ l) :
    ∃ t, storeByte s = .next t := by
  rcases Nat.lt_or_eq_of_le hcl with hlt | rfl
  · exact ⟨_, storeByte_room hc hl hlt⟩
  · exact ⟨_, storeByte_full hc hl⟩

theorem unknownState_total {s : State} {v : Byte} (hv : s.snapshot = some v) : ∃ t, unknownState s = .next t :=
  ⟨_, unknownState_next hv⟩

theorem succeedWithCount_total {s : State} {c : Nat} (hc : s.cursor = some c) : ∃ t, succeedWithCount s = .next t :=
  ⟨_, succeedWithCount_next hc⟩

theorem execTxStSlaAck_total {s : State} {c l : Nat} (hc : s.cursor = some c) (hl : s.len = some l) (hcl : c ≤ l) :
    ∃ t, execTxStSlaAck s = .next t := by
  simp only [execTxStSlaAck, readCursor_some hc, readLen_some hl]
  split
  · exact ⟨_, rfl⟩
  · exact ⟨_, loadByte_next hl (by omega)⟩

theorem execTxStDataAck_total {s : State} {c l : Nat} (hc : s.cursor = some c) (hl : s.len = some l) (hcl : c ≤ l) :
    ∃ t, execTxStDataAck s = .next t := by
  simp only [execTxStDataAck, readCursor_some hc, readLen_some hl]
  split
  · exact ⟨_, rfl⟩
  · exact ⟨_, loadByte_next hl (by omega)⟩

/-- Every row completes where the working registers have values and the cursor is within the buffer. -/
theorem row_total (m : Mode) (e : Event) {s : State} {c l : Nat} {v : Byte} (hc : s.cursor = some c)
    (hl : s.len = some l) (hcl : c ≤ l) (hv : s.snapshot = some v) : ∃ t, exec (rowInstr m e) s = .next t := by
  cases m with
  | receive =>
    cases e with
    | srDataAck => exact storeByte_total hc hl hcl
    | srGcallDataAck => exact storeByte_total hc hl hcl
    | stArbSlaAck => exact unknownState_total hv
    | stDataAck => exact unknownState_total hv
    | stDataNack => exact unknownState_total hv
    | stLastData => exact unknownState_total hv
    | unrecognized => exact unknownState_total hv
    | _ => exact ⟨_, rfl⟩
  | respond =>
    cases e with
    | srSlaAck => exact ⟨_, rfl⟩
    | stSlaAck => exact execTxStSlaAck_total hc hl hcl
    | stArbSlaAck => exact ⟨_, rfl⟩
    | stDataAck => exact execTxStDataAck_total hc hl hcl
    | stDataNack => exact succeedWithCount_total hc
    | stLastData => exact succeedWithCount_total hc
    | _ => exact unknownState_total hv

/-! ### The steps -/

theorem Inv.actStep_total {s : State} (h : Inv s) (hp : s.phase = .act) : ∃ t, actStep s = .next t := by
  obtain ⟨m, c, l, hm, hc, hl, hcl, -, -⟩ := h.inside (by simp [hp])
  obtain ⟨v, hv, -, he⟩ := h.decoded (.inl hp)
  obtain ⟨u, hu⟩ := row_total m (decodeEvent s.cfg v) hc hl hcl hv
  exact ⟨_, by simp only [actStep, readMode, readEvent, hm, he, hu, andThen]; rfl⟩

theorem Inv.returnToCaller_total {s : State} (h : Inv s) (hp : s.phase = .done) : ∃ t, returnToCaller s = .next t := by
  obtain ⟨m, c, l, -, -, hl, -, -, -⟩ := h.inside (by simp [hp])
  obtain ⟨o, ho⟩ := Option.ne_none_iff_exists'.1 (h.returning hp).1
  exact ⟨_, by simp only [returnToCaller, readOutcome, readLen, ho, hl]; rfl⟩

/-- The engine always has its next step. -/
theorem Inv.engineStep_total {s : State} (h : Inv s) : ∃ t, engineStep s = .next t := by
  unfold engineStep
  split
  · exact ⟨_, rfl⟩
  · exact ⟨_, rfl⟩
  · exact ⟨_, rfl⟩
  · next hp => exact h.actStep_total hp
  · exact ⟨_, rfl⟩
  · next hp => exact h.returnToCaller_total hp

theorem whenIdle_next_ne_fault (s t : State) (r : Fault) : whenIdle s (.next t) ≠ .fault r := by
  unfold whenIdle
  split <;> simp

theorem startCall_ne_fault (m : Mode) (b : List Byte) (s : State) (r : Fault) : startCall m b s ≠ .fault r := by
  unfold startCall
  split
  · split <;> simp
  · simp

/-- A caller's move is made or refused. -/
theorem callerStep_ne_fault (op : Instr) (s : State) (r : Fault) : callerStep op s ≠ .fault r := by
  cases op with
  | configure g => exact whenIdle_next_ne_fault s _ r
  | arm => exact whenIdle_next_ne_fault s _ r
  | receive b => exact startCall_ne_fault .receive b s r
  | respond b => exact startCall_ne_fault .respond b s r
  | _ => simp [callerStep]

theorem envMoveStep_eq (e : EnvMove) (s : State) : envMoveStep e s = .next (envStep e s) := by
  cases e <;> rfl

theorem Inv.engineStep_ne_fault {s : State} (h : Inv s) (r : Fault) : engineStep s ≠ .fault r := by
  obtain ⟨t, ht⟩ := h.engineStep_total
  simp [ht]

theorem Inv.freeStep_ne_fault {s : State} (h : Inv s) (r : Fault) : freeStep s ≠ .fault r := by
  unfold freeStep
  split
  · simp [exec, execSignal]
  · exact (h.schedule s.agenda []).engineStep_ne_fault r

theorem Inv.moveStep_ne_fault {s : State} (h : Inv s) (m : Move) (r : Fault) : moveStep m s ≠ .fault r := by
  cases m with
  | engine gs => exact (h.schedule s.agenda gs).engineStep_ne_fault r
  | caller op gs => exact callerStep_ne_fault op _ r
  | env e => simp [moveStep, envMoveStep_eq]

/-- Settles O45: the engine's step is total on the invariant, and no other agent's move can fault. -/
theorem noStepFaultsFromTheInvariant : Obligations.NoStepFaultsFromTheInvariant := by
  intro s r h
  cases ha : s.agenda with
  | nil => exact step_free h.cfgOk ha ▸ h.freeStep_ne_fault r
  | cons m rest => exact step_move h.cfgOk ha ▸ (h.schedule rest s.gaps).moveStep_ne_fault m r

end Sys2Proof.Machine
end

section
/-! R25, R245: the flag rises only with a recorded `signal()` and falls only by the clear of the CLEAR step. R21, R29, R41:
what a step leaves fixed. -/

namespace Sys2Proof.Machine

/-! ### The flag -/

/-- From `s` to `t` the record grows, the flag does not fall, and where it rises a `signal()` is among what was added. -/
structure FlagTraced (s t : State) : Prop where
  rises : ∃ new, t.trace = new ++ s.trace ∧ (s.flag = false → t.flag = true → Access.signal ∈ new)
  stays : s.flag = true → t.flag = true

theorem FlagTraced.trans {s t u : State} (h : FlagTraced s t) (k : FlagTraced t u) : FlagTraced s u := by
  obtain ⟨⟨n, hn, hs⟩, hstays⟩ := h
  obtain ⟨⟨m, hm, ks⟩, kstays⟩ := k
  refine ⟨⟨m ++ n, by rw [hm, hn, List.append_assoc], fun hlow hhigh => ?_⟩, fun hf => kstays (hstays hf)⟩
  cases ht : t.flag with
  | false => exact List.mem_append_left _ (ks ht hhigh)
  | true => exact List.mem_append_right _ (hs hlow ht)

/-- The other agents. -/
theorem EnvRecord.flagTraced {s t : State} (h : EnvRecord s t) : FlagTraced s t := by
  obtain ⟨⟨new, hnew, -, hsignal⟩, hstays⟩ := h
  exact ⟨⟨new, hnew, hsignal⟩, hstays⟩

/-- Accesses that leave the flag alone. -/
theorem FlagTraced.of_flag_eq {s t : State} (new : List Access) (hf : t.flag = s.flag) (ht : t.trace = new ++ s.trace) :
    FlagTraced s t :=
  ⟨⟨new, ht, fun hlow hhigh => by simp [hf, hlow] at hhigh⟩, fun h => hf.trans h⟩

theorem FlagTraced.gap {s t : State} (h : FlagTraced s t) : FlagTraced s (gap t) :=
  h.trans (gap_record t).flagTraced

/-- One more access that leaves the flag alone. -/
theorem FlagTraced.access {s t u : State} (h : FlagTraced s t) (a : Access) (hf : u.flag = t.flag)
    (ht : u.trace = a :: t.trace) : FlagTraced s u :=
  h.trans (.of_flag_eq [a] hf ht)

theorem FlagTraced.raise {s t : State} (h : FlagTraced s t) (o : CallOutcome) : FlagTraced s (raise o t) :=
  h.access _ rfl rfl

theorem FlagTraced.nackThenRaise {s t : State} (h : FlagTraced s t) (o : CallOutcome) :
    FlagTraced s (nackThenRaise o t) :=
  (h.access (u := commandNack t) _ rfl rfl).gap.raise o

theorem RowNext.flagTraced {m : Mode} {e : Event} {s t : State} (h : RowNext m e s t) : FlagTraced s t := by
  have refl : FlagTraced s s := .of_flag_eq [] rfl rfl
  have pad : FlagTraced s (padByteNack s) :=
    (refl.access (u := ioWriteDr padByte s) _ rfl rfl).gap.access _ rfl rfl
  cases h with
  | rearm => exact refl.access _ rfl rfl
  | arbitration => exact refl.nackThenRaise _
  | store c l =>
    have hread := (refl.access (u := s.record (.drRead s.dr)) _ rfl rfl).gap
    have hwrite := hread.access (u := State.record (.bufWrite c s.dr) { gap (s.record (.drRead s.dr)) with
      buf := (gap (s.record (.drRead s.dr))).buf.write c s.dr, cursor := some (c + 1) }) _ rfl rfl
    exact hwrite.gap.access _ rfl rfl
  | overflow => exact refl.raise _
  | ended => exact refl.raise _
  | readInReceive => exact (refl.access (u := ioWriteDr s.cfg.dummyByte s) _ rfl rfl).gap.nackThenRaise _
  | writeInRespond => exact refl.raise _
  | unknown => exact refl.raise _
  | load c l =>
    have hread := (refl.access (u := s.record (.bufRead c (s.buf.read c))) _ rfl rfl).gap
    have hload := hread.access (u := { ioWriteDr (s.buf.read c) (gap (s.record (.bufRead c (s.buf.read c)))) with
      cursor := some (c + 1) }) _ rfl rfl
    exact hload.gap.access _ rfl rfl
  | pad => exact pad
  | padAndEnd => exact pad.gap.raise _
  | counted => exact refl.raise _

/-- R25, R245 for the engine: outside CLEAR it leaves the flag to the other agents. -/
theorem EngineNext.flag {s t : State} (h : EngineNext s t) :
    FlagTraced s t ∨ (s.phase = .clear ∧ t.flag = false ∧ t.trace = .flagClear :: s.trace) := by
  cases h with
  | idle _ ht => exact .inl (ht ▸ .of_flag_eq [] rfl rfl)
  | wait _ ht => exact .inl (ht ▸ .of_flag_eq [.flagRead s.flag] rfl rfl)
  | snapshot _ ht => exact .inl (ht ▸ .of_flag_eq [.srRead s.sr] rfl rfl)
  | act m e u _ _ _ hr ht => exact .inl (ht ▸ hr.flagTraced.trans (.of_flag_eq [] rfl rfl))
  | clear hp ht => exact .inr (ht ▸ ⟨hp, rfl, rfl⟩)
  | done o l _ _ _ ht => exact .inl (ht ▸ .of_flag_eq [] rfl rfl)

theorem CallerNext.flagTraced {op : Instr} {s t : State} (h : CallerNext op s t) : FlagTraced s t := by
  cases h with
  | call m b _ _ _ ht => exact ht ▸ .of_flag_eq [] rfl rfl
  | configure g _ _ ht =>
    have haddress : FlagTraced s (ioWriteAr (addressWord s.cfg s.addr7 g) s) := .of_flag_eq [.arWrite _] rfl rfl
    exact ht ▸ haddress.gap.access _ rfl rfl
  | arm _ _ ht => exact ht ▸ .of_flag_eq [.crWrite _] rfl rfl

theorem step_flag {s t : State} (h : step s = .next t) :
    FlagTraced s t ∨ (s.phase = .clear ∧ t.flag = false ∧ t.trace = .flagClear :: s.trace) := by
  have moved : ∀ agenda gs, FlagTraced s { s with agenda := agenda, gaps := gs } := fun _ _ => .of_flag_eq [] rfl rfl
  cases step_cases h with
  | engine u gs rest hu hstep =>
    subst hu
    exact (engineStep_cases hstep).flag.imp_left (moved rest gs).trans
  | caller u op gs rest _ hu hstep => exact .inl ((hu ▸ moved rest gs).trans (callerStep_cases hstep).flagTraced)
  | env u e rest hu ht => exact .inl (ht ▸ (hu ▸ moved rest s.gaps).trans (envStep_record e u).flagTraced)

/-- Settles O49: every step either leaves the flag to `signal()` or is the clear of CLEAR. -/
theorem flagIsSetBySignalAndClearedByClear : Obligations.FlagIsSetBySignalAndClearedByClear := by
  intro s t h
  rcases step_flag h with ⟨⟨new, hnew, hsignal⟩, hstays⟩ | ⟨hp, hf, ht⟩
  · exact ⟨fun hlow hhigh => ⟨new, hnew, hsignal hlow hhigh⟩, fun hhigh hlow => by simp [hstays hhigh] at hlow⟩
  · exact ⟨fun _ hhigh => by simp [hf] at hhigh, fun _ _ => ⟨hp, ht⟩⟩

/-! ### Mode, length and configuration -/

/-- What `ModeLengthAndConfigurationAreFixed` says of a step from `s` to `t`. -/
structure CallFixed (s t : State) : Prop where
  cfg : t.cfg = s.cfg
  addr7 : t.addr7 = s.addr7
  ar : s.phase ≠ .idle → t.ar = s.ar
  call : s.phase ≠ .idle → t.phase ≠ .idle → t.mode = s.mode ∧ t.len = s.len

theorem EngineNext.callFixed {s t : State} (h : EngineNext s t) : CallFixed s t := by
  cases h with
  | idle _ ht => exact ht ▸ ⟨rfl, rfl, fun _ => rfl, fun _ _ => ⟨rfl, rfl⟩⟩
  | wait _ ht => exact ht ▸ ⟨rfl, rfl, fun _ => rfl, fun _ _ => ⟨rfl, rfl⟩⟩
  | snapshot _ ht => exact ht ▸ ⟨rfl, rfl, fun _ => rfl, fun _ _ => ⟨rfl, rfl⟩⟩
  | act m e u _ _ _ hr ht =>
    have hf := hr.frame
    exact ht ▸ ⟨hf.cfg, hf.addr7, fun _ => hf.ar, fun _ _ => ⟨hf.mode, hf.len⟩⟩
  | clear _ ht => exact ht ▸ ⟨rfl, rfl, fun _ => rfl, fun _ _ => ⟨rfl, rfl⟩⟩
  | done o l _ _ _ ht => exact ht ▸ ⟨rfl, rfl, fun _ => rfl, fun _ hp => absurd rfl hp⟩

/-- The caller moves in IDLE only. -/
theorem CallerNext.callFixed {op : Instr} {s t : State} (h : CallerNext op s t) : CallFixed s t := by
  cases h with
  | call m b _ hp _ ht => exact ht ▸ ⟨rfl, rfl, fun hn => absurd hp hn, fun hn => absurd hp hn⟩
  | configure g _ hp ht => exact ht ▸ ⟨by simp, by simp, fun hn => absurd hp hn, fun hn => absurd hp hn⟩
  | arm _ hp ht => exact ht ▸ ⟨rfl, rfl, fun hn => absurd hp hn, fun hn => absurd hp hn⟩

theorem envStep_callFixed (e : EnvMove) (s : State) : CallFixed s (envStep e s) :=
  ⟨envStep_cfg e s, envStep_addr7 e s, fun _ => envStep_ar e s, fun _ _ => ⟨envStep_mode e s, envStep_len e s⟩⟩

theorem step_callFixed {s t : State} (h : step s = .next t) : CallFixed s t := by
  cases step_cases h with
  | engine u gs rest hu hstep =>
    subst hu
    exact { (engineStep_cases hstep).callFixed with }
  | caller u op gs rest _ hu hstep =>
    subst hu
    exact { (callerStep_cases hstep).callFixed with }
  | env u e rest hu ht =>
    subst hu ht
    exact { envStep_callFixed e _ with }

/-- Settles O50: `CallFixed` for each agent's move. -/
theorem modeLengthAndConfigurationAreFixed : Obligations.ModeLengthAndConfigurationAreFixed := by
  intro s t h
  obtain ⟨hcfg, haddr, har, hcall⟩ := step_callFixed h
  exact ⟨hcfg, haddr, har, hcall⟩

end Sys2Proof.Machine
end

section
/-! R28, R30, R31, R55, R77: the bits of the control register and the two fields of the address word. -/

namespace Sys2Proof

/-! ### The control register -/

/-- The named and the unnamed positions of a legal layout are the eight positions of a byte (R31). -/
theorem ControlLayout.mem_toList_or_unnamed {l : ControlLayout} (h : l.wf = true) {n : Nat} (hn : n < 8) :
    n ∈ l.toList ∨ n = l.unnamedHigh ∨ n = l.unnamedLow := by
  have := (ControlLayout.mem_unnamed h n).2
  tauto

theorem getLsbD_and_decide (v : Byte) (n i : Nat) : (v.getLsbD i && decide (n = i)) = (v.getLsbD n && decide (n = i)) := by
  by_cases h : n = i <;> simp [h]

/-- R28: the bits read from a byte, put back at their positions, are the byte. -/
theorem ControlLayout.word_fields {l : ControlLayout} (h : l.wf = true) (b : Byte) : l.word (l.fields b) = b := by
  apply BitVec.eq_of_getLsbD_eq
  intro n hn
  have hpos := ControlLayout.mem_toList_or_unnamed h hn
  simp only [ControlLayout.toList, List.mem_cons, List.not_mem_nil, or_false] at hpos
  simp only [ControlLayout.getLsbD_word h, ControlLayout.fields, getLsbD_and_decide b n, ← Bool.and_or_distrib_left,
    ← Bool.decide_or]
  rw [decide_eq_true (by tauto), Bool.and_true]

end Sys2Proof

namespace Sys2Proof.Machine

/-- R55 at the position of `INT`. -/
theorem getLsbD_int_controlAfterWrite {l : ControlLayout} (h : l.wf = true) (c : Control) (v : Byte) :
    (l.word (controlAfterWrite c (l.fields v))).getLsbD l.int = ((l.word c).getLsbD l.int && !v.getLsbD l.int) := by
  have hread (d : Control) : (l.word d).getLsbD l.int = d.int := congrArg Control.int (ControlLayout.fields_word h d)
  rw [hread, hread]
  rfl

/-- R55 at every other position: a named one takes the bit written, an unnamed one takes 0 (log entry 8). -/
theorem getLsbD_controlAfterWrite_of_ne {l : ControlLayout} (h : l.wf = true) (c : Control) (v : Byte) {n : Nat}
    (hn : n ≠ l.int) : (l.word (controlAfterWrite c (l.fields v))).getLsbD n = (v.getLsbD n && l.toList.contains n) := by
  simp [ControlLayout.getLsbD_word h, controlAfterWrite, ControlLayout.fields, ControlLayout.toList, hn,
    getLsbD_and_decide v n, ← Bool.and_or_distrib_left, Bool.or_assoc]

/-- Settles O58: a byte and its bits determine each other, and a control write bit by bit. -/
theorem controlRegisterHoldsEightBits : Obligations.ControlRegisterHoldsEightBits := by
  refine ⟨fun p b h => ControlLayout.word_fields (Params.control_wf h) b,
    fun p c h => ControlLayout.fields_word (Params.control_wf h) c, fun s v n h => ?_⟩
  rw [ioWriteCr_cr]
  split
  · next hn => subst hn; exact getLsbD_int_controlAfterWrite (Params.control_wf h) s.cr v
  · next hn => exact getLsbD_controlAfterWrite_of_ne (Params.control_wf h) s.cr v hn

end Sys2Proof.Machine

namespace Sys2Proof

/-! ### The address word -/

/-- R10 (d) leaves two layouts of the address register: the general-call bit below the field or above it. -/
theorem Params.address_layout {p : Params} (h : p.wf = true) :
    (p.arAddrShift = 1 ∧ p.arGce = 0) ∨ (p.arAddrShift = 0 ∧ p.arGce = 7) := by
  obtain ⟨-, -, -, hd, -⟩ := (Params.wf_iff p).1 h
  simp only [Params.addressFieldsDisjoint, Bool.and_eq_true, Bool.or_eq_true, decide_eq_true_eq] at hd
  omega

/-- Each bit of an address word: the general-call bit at its position, elsewhere the address, shifted. -/
theorem getLsbD_addressWord {p : Params} (h : p.wf = true) (a : Addr7) (g : Bool) (n : Nat) (hn : n < 8) :
    (addressWord p a g).getLsbD n = if n = p.arGce then g else a.getLsbD (n - p.arAddrShift) := by
  have hlayout := Params.address_layout h
  simp only [addressWord, BitVec.getLsbD_or, BitVec.getLsbD_shiftLeft, BitVec.getLsbD_setWidth,
    getLsbD_ite_bitAt g p.arGce n (by omega)]
  by_cases hg : n = p.arGce
  · subst hg
    have hout : p.arGce < p.arAddrShift ∨ 7 ≤ p.arGce - p.arAddrShift := by omega
    rcases hout with hlow | hhigh
    · simp [hlow]
    · simp [BitVec.getLsbD_of_ge a _ hhigh]
  · simp [hg, hn, show ¬ n < p.arAddrShift by omega, show n - p.arAddrShift < 8 by omega]

theorem gceField_addressWord {p : Params} (h : p.wf = true) (a : Addr7) (g : Bool) :
    gceField p (addressWord p a g) = g := by
  have hb : p.arGce < 8 := by have := Params.address_layout h; omega
  rw [gceField, getLsbD_addressWord h a g _ hb, if_pos rfl]

theorem addressField_addressWord {p : Params} (h : p.wf = true) (a : Addr7) (g : Bool) :
    addressField p (addressWord p a g) = a := by
  apply BitVec.eq_of_getLsbD_eq
  intro n hn
  have := Params.address_layout h
  simp only [addressField, BitVec.getLsbD_setWidth, BitVec.getLsbD_ushiftRight, hn, decide_true, Bool.true_and]
  rw [getLsbD_addressWord h a g _ (by omega), if_neg (by omega), Nat.add_sub_cancel_left]

/-- R77 with the default layout: `(addr7 << 1) OR gce` is a sum, since the shifted address is even. -/
theorem addressWord_default_toNat (a : Addr7) (g : Bool) :
    (addressWord .default a g).toNat = 2 * a.toNat + (if g then 1 else 0) := by
  have hg : (if g then 1 else 0) < 2 ^ 1 := by split <;> decide
  have hword : (addressWord .default a g).toNat = a.toNat <<< 1 ||| (if g then 1 else 0) := by
    have hfits : (a.toNat % 256) <<< 1 % 256 = a.toNat <<< 1 := by
      have := a.isLt
      simp only [Nat.shiftLeft_eq]
      omega
    cases g <;> simp [addressWord, Params.default, bitAt, hfits]
  rw [hword, ← Nat.shiftLeft_add_eq_or_of_lt hg, Nat.shiftLeft_eq]
  omega

/-- Settles O7: each field of the word is read bit by bit (`getLsbD_addressWord`). -/
theorem addressWordHoldsAddressAndGeneralCall : Obligations.AddressWordHoldsAddressAndGeneralCall :=
  ⟨fun _ a g h => ⟨addressField_addressWord h a g, gceField_addressWord h a g⟩, addressWord_default_toNat⟩

end Sys2Proof
end

section
/-! R55, R58, R65: what a write to the control register, a write to the address register and a `BusEvent` leave of the
whole state. -/

namespace Sys2Proof.Machine

/-! ### Register writes -/

/-- Settles O10: `controlAfterWrite` bit by bit, the pending flag by the written `INT`. -/
theorem controlWriteCopiesEnablesAndClearsPendingOnOne :
    Obligations.ControlWriteCopiesEnablesAndClearsPendingOnOne := by
  intro s v
  have hint : (s.cr.int && !v.getLsbD s.cfg.control.int) = if v.getLsbD s.cfg.control.int then false else s.cr.int := by
    cases v.getLsbD s.cfg.control.int <;> simp
  simp only [ioWriteCr, State.record, controlAfterWrite, ControlLayout.fields, hint]

/-- Settles O15: the address word's meaning is `ioWriteAr`, which writes only `AR` and the record of accesses. -/
theorem addressWordWriteSetsTheAddressRegister : Obligations.AddressWordWriteSetsTheAddressRegister :=
  fun _ _ _ => rfl

/-! ### The bus environment -/

theorem busEnabled_iff (s : State) : busEnabled s = true ↔ s.cr.en = true ∧ s.cr.int = false := by
  simp [busEnabled]

/-- Only a data status needs its byte (log entry 24). -/
theorem isBusEvent_iff (p : Params) (v : Byte) (d : Option Byte) :
    isBusEvent p v d = true ↔ (isDataStatus p v = true → d ≠ none) := by
  cases d <;> simp [isBusEvent]

/-- The state after a `BusEvent` that is made, in full, under the level kind. -/
theorem busEvent_eq {s : State} {v : Byte} {d : Option Byte} (hk : s.cfg.irqKind = .level)
    (hen : busEnabled s = true) (hd : isBusEvent s.cfg v d = true) :
    busEvent v d s = { s with
      sr := (v &&& ~~~s.cfg.prescalerMask) ||| (s.sr &&& s.cfg.prescalerMask)
      dr := d.getD s.dr
      cr := { s.cr with int := true }
      trace := .busEvent v d :: s.trace } := by
  simp [busEvent, hen, hd, hk, State.record]

/-- A `BusEvent` that is not enabled, or that no bus makes, is no step (log entries 15, 24). -/
theorem busEvent_eq_self {s : State} {v : Byte} {d : Option Byte}
    (h : ¬ (busEnabled s = true ∧ isBusEvent s.cfg v d = true)) : busEvent v d s = s := by
  rw [busEvent, if_neg (by simpa only [Bool.and_eq_true] using h)]

/-- The step of another agent's move. -/
theorem step_env {s : State} {e : EnvMove} {rest : List Move} (hw : s.cfg.wf = true) (ha : s.agenda = .env e :: rest) :
    step s = .next (envStep e { s with agenda := rest }) :=
  (step_move hw ha).trans (envMoveStep_eq e _)

/-- Settles O21: the step is `busEvent`, which acts exactly while it is enabled (`busEnabled_iff`, `isBusEvent_iff`). -/
theorem busEventFollowsItsContract : Obligations.BusEventFollowsItsContract := by
  intro s v d rest hw hk ha
  refine ⟨?made, ?unmade⟩
  case made =>
    rintro ⟨hen, hint, hd⟩
    have hmade := busEvent_eq (s := { s with agenda := rest }) hk ((busEnabled_iff _).2 ⟨hen, hint⟩)
      ((isBusEvent_iff s.cfg v d).2 hd)
    refine ⟨_, step_env hw ha, hmade.trans ?_, ?_⟩
    · cases d <;> rfl
    · exact (congrArg (fun t => snapshotOf s.cfg t.sr) hmade).trans (snapshotOf_or_mask s.cfg v s.sr)
  case unmade =>
    intro h
    have hstay : busEvent v d { s with agenda := rest } = { s with agenda := rest } := by
      refine busEvent_eq_self ?_
      rw [busEnabled_iff, isBusEvent_iff]
      rintro ⟨⟨hen, hint⟩, hd⟩
      rcases h with h | h | ⟨hdata, hnone⟩
      · simp [h] at hen
      · simp [h] at hint
      · exact hd hdata hnone
    exact (step_env hw ha).trans (congrArg Host.Outcome.next hstay)

end Sys2Proof.Machine
end

section
/-! R71 to R75: the codes of a legal configuration and the events determine each other, so the status decoder and the
row lookup undo the encoder. -/

namespace Sys2Proof

/-! ### The codes of the events -/

/-- The thirteen named events, in the order of `StatusCodes.toList`. -/
def Event.named : List Event :=
  [.srSlaAck, .srArbSlaAck, .srGcallAck, .srArbGcallAck, .srDataAck, .srGcallDataAck, .srStop, .stSlaAck, .stArbSlaAck,
    .stDataAck, .stDataNack, .stLastData, .srDataFinal]

theorem Event.mem_named_or_unrecognized (e : Event) : e ∈ Event.named ∨ ∃ u, e = .unrecognized u := by
  cases e with
  | unrecognized u => exact .inr ⟨u, rfl⟩
  | _ => exact .inl (by decide)

/-- The codes that are present are the codes of the named events (R72, R74). -/
theorem StatusCodes.toList_eq_filterMap (p : Params) : p.codes.toList = Event.named.filterMap (Event.code p) := by
  cases hf : p.codes.srDataFinal <;> simp [StatusCodes.toList, Event.named, Event.code, hf]

theorem StatusCodes.mem_toList_iff (p : Params) (c : Byte) :
    c ∈ p.codes.toList ↔ ∃ e ∈ Event.named, e.code p = some c := by
  rw [StatusCodes.toList_eq_filterMap, List.mem_filterMap]

/-- R10 (a): no two named events have the same code, an absent one included. -/
theorem Event.named_codes_nodup {p : Params} (h : p.wf = true) : (Event.named.map (Event.code p)).Nodup := by
  have hcodes := (Params.codes_nodup h).map (Option.some_injective Byte)
  cases hf : p.codes.srDataFinal <;>
    simpa [StatusCodes.toList, Event.named, Event.code, hf] using hcodes

theorem Event.code_injective_on_named {p : Params} (h : p.wf = true) {e e' : Event} (he : e ∈ Event.named)
    (he' : e' ∈ Event.named) (hc : e.code p = e'.code p) : e = e' :=
  List.inj_on_of_nodup_map (Event.named_codes_nodup h) he he' hc

/-! ### The status decoder -/

/-- The decoder answers an event whose code is the byte it read (R72). -/
theorem decodeEvent_code (p : Params) (s : Byte) : (decodeEvent p s).code p = some s := by
  fun_cases decodeEvent p s <;> simp only [Event.code, *]

/-- R73: the last row of the decoder is reached exactly when no code matched. -/
theorem decodeEvent_eq_unrecognized_iff (p : Params) (s c : Byte) :
    decodeEvent p s = .unrecognized c ↔ c = s ∧ s ∉ p.codes.toList := by
  fun_cases decodeEvent p s <;>
    simp [StatusCodes.toList, @eq_comm _ c, @eq_comm _ p.codes.srDataFinal, *]

/-- R72, R73: the decoder finds an event from its code; `Unrecognized` must carry a byte that is no code. -/
theorem decodeEvent_of_code {p : Params} (h : p.wf = true) {e : Event} {c : Byte} (hc : e.code p = some c)
    (hu : ∀ u, e = .unrecognized u → u ∉ p.codes.toList) : decodeEvent p c = e := by
  have hdec := decodeEvent_code p c
  rcases e.mem_named_or_unrecognized with he | ⟨u, rfl⟩
  · have hmem : c ∈ p.codes.toList := (StatusCodes.mem_toList_iff p c).2 ⟨e, he, hc⟩
    rcases (decodeEvent p c).mem_named_or_unrecognized with hd | ⟨v, hv⟩
    · exact Event.code_injective_on_named h hd he (hdec.trans hc.symm)
    · exact absurd hmem ((decodeEvent_eq_unrecognized_iff p c v).1 hv).2
  · obtain rfl : u = c := Option.some_injective Byte hc
    exact (decodeEvent_eq_unrecognized_iff p u u).2 ⟨rfl, hu u rfl⟩

/-- The numbers of the bytes that are codes, in rising order, are the codes in another order. -/
theorem filter_codes_perm {p : Params} (h : p.wf = true) :
    ((List.range 256).filter fun n => p.codes.toList.contains (BitVec.ofNat 8 n)).Perm
      (p.codes.toList.map BitVec.toNat) := by
  have hcodes : (p.codes.toList.map BitVec.toNat).Nodup :=
    (Params.codes_nodup h).map fun _ _ => BitVec.eq_of_toNat_eq
  refine (List.perm_ext_iff_of_nodup (List.nodup_range.filter _) hcodes).2 fun n => ?_
  simp only [List.mem_filter, List.mem_range, List.contains_iff_mem, List.mem_map]
  constructor
  · rintro ⟨hn, hmem⟩
    exact ⟨_, hmem, BitVec.toNat_ofNat n 8 ▸ Nat.mod_eq_of_lt hn⟩
  · rintro ⟨c, hmem, rfl⟩
    exact ⟨c.isLt, by simpa using hmem⟩

/-- R73: under a legal configuration every byte is a code or decodes to `Unrecognized`, and the codes are distinct. -/
theorem length_filter_unrecognized {p : Params} (h : p.wf = true) :
    ((List.range 256).filter fun n =>
      decodeEvent p (BitVec.ofNat 8 n) == .unrecognized (BitVec.ofNat 8 n)).length + p.codes.toList.length = 256 := by
  have hunrec : (fun n => decodeEvent p (BitVec.ofNat 8 n) == .unrecognized (BitVec.ofNat 8 n)) =
      fun n => !p.codes.toList.contains (BitVec.ofNat 8 n) := by
    funext n
    rw [Bool.eq_iff_iff, beq_iff_eq, decodeEvent_eq_unrecognized_iff]
    simp
  have hcodes := (filter_codes_perm h).length_eq
  have hsum := List.length_eq_length_filter_add (l := List.range 256) fun n =>
    p.codes.toList.contains (BitVec.ofNat 8 n)
  rw [List.length_range] at hsum
  rw [List.length_map] at hcodes
  rw [hunrec]
  omega

/-- Settles O4: `decodeEvent_eq_unrecognized_iff`; the 243 are the 256 bytes less the thirteen default codes, and none
of these has bit 2 set. -/
theorem unrecognizedIsEveryByteWithoutACode : Obligations.UnrecognizedIsEveryByteWithoutACode := by
  have hunrec {c : Byte} (hc : c ∉ Params.default.codes.toList) : decodeEvent .default c = .unrecognized c :=
    (decodeEvent_eq_unrecognized_iff .default c c).2 ⟨rfl, hc⟩
  refine ⟨decodeEvent_eq_unrecognized_iff, ?count, ?listed, ?bit2⟩
  case count =>
    have hlen : Params.default.codes.toList.length = 13 := rfl
    have hsum := length_filter_unrecognized (p := .default) (by decide)
    omega
  case listed =>
    have hlisted : ∀ c ∈ [0x00#8, 0xF8#8, 0x98#8, 0x08#8, 0x10#8, 0x18#8, 0x20#8, 0x28#8, 0x30#8, 0x38#8, 0x40#8,
        0x48#8, 0x50#8, 0x58#8], c ∉ Params.default.codes.toList := by decide
    exact fun c hc => hunrec (hlisted c hc)
  case bit2 =>
    have hclear : ∀ d ∈ Params.default.codes.toList, d.getLsbD 2 = false := by decide
    exact fun c hc => hunrec fun hmem => Bool.noConfusion ((hclear c hmem).symm.trans hc)

/-! ### Rows and their words -/

theorem encode_rowInstr (p : Params) (m : Mode) (e : Event) : encode p (rowInstr m e) = encodeRow p m e := by
  cases m <;> cases e <;> rfl

theorem Params.isUnnamedSnapshot_iff (p : Params) (c : Byte) :
    p.isUnnamedSnapshot c = true ↔ c &&& p.prescalerMask = 0#8 ∧ c ∉ p.codes.toList := by
  simp [Params.isUnnamedSnapshot]

/-- R73, R74: a row is well formed when its `Unrecognized` carries an unnamed snapshot and its event has a code. -/
theorem rowInstr_wf_iff (p : Params) (m : Mode) (e : Event) : (rowInstr m e).wf p = true ↔
    (∀ u, e = .unrecognized u → p.isUnnamedSnapshot u = true) ∧ (e.code p).isSome = true := by
  cases m <;> cases e <;> simp [rowInstr, Instr.wf, Event.code]

/-- R71, R72, R75: a status byte whose snapshot is the code of an event selects that event's row. -/
theorem decodeStatus_of_code {p : Params} (h : p.wf = true) (m : Mode) {e : Event} {raw : Byte}
    (hc : e.code p = some (snapshotOf p raw)) (hu : ∀ u, e = .unrecognized u → u ∉ p.codes.toList) :
    decodeStatus p m raw = rowInstr m e := by
  rw [decodeStatus, decodeEvent_of_code h hc hu]

/-- R10 (b), R73: the code of a well-formed row has no prescaler bit. -/
theorem code_clear_of_rowInstr_wf {p : Params} (h : p.wf = true) {m : Mode} {e : Event} {c : Byte}
    (hw : (rowInstr m e).wf p = true) (hc : e.code p = some c) : c &&& p.prescalerMask = 0#8 := by
  rcases e.mem_named_or_unrecognized with he | ⟨u, rfl⟩
  · exact Params.code_clear h ((StatusCodes.mem_toList_iff p c).2 ⟨e, he, hc⟩)
  · obtain rfl : u = c := Option.some_injective Byte hc
    exact ((Params.isUnnamedSnapshot_iff p u).1 (((rowInstr_wf_iff p m _).1 hw).1 u rfl)).1

/-- Settles O5: the snapshot of the raw byte is the code (`snapshotOf_or_mask`). -/
theorem prescalerBitsDoNotChangeTheRow : Obligations.PrescalerBitsDoNotChangeTheRow := by
  intro p m e c ps h hc hclear hu
  have hself : snapshotOf p c = c := snapshotOf_of_clear hclear
  have hsnap : snapshotOf p (c ||| (ps &&& p.prescalerMask)) = c := by
    calc snapshotOf p (c ||| (ps &&& p.prescalerMask))
        = snapshotOf p (snapshotOf p c ||| (ps &&& p.prescalerMask)) := by rw [hself]
      _ = c := (snapshotOf_or_mask p c ps).trans hself
  exact decodeStatus_of_code h m (hsnap.symm ▸ hc) hu

/-- Settles O3: the row is the one the decoder answers; its code is the snapshot (`decodeEvent_code`). -/
theorem statusByteDecodesToTheRowOfItsSnapshot : Obligations.StatusByteDecodesToTheRowOfItsSnapshot := by
  intro p m raw rest _
  have hcode := decodeEvent_code p (snapshotOf p raw)
  refine ⟨decodeStatus p m raw, rfl, (rowInstr_wf_iff p m _).2 ⟨fun u hu => ?_, ?_⟩, ?_⟩
  · obtain ⟨rfl, hmem⟩ := (decodeEvent_eq_unrecognized_iff _ _ _).1 hu
    exact (Params.isUnnamedSnapshot_iff p _).2 ⟨snapshotOf_and_mask p raw, hmem⟩
  · rw [hcode, Option.isSome_some]
  · rw [decodeStatus, encode_rowInstr, encodeRow, hcode, Option.map_some]

end Sys2Proof
end

section
/-! R76 to R79: the command words, the address word and the outcome port read back; whatever is not one of the caller's
four operations is refused from it. -/

namespace Sys2Proof

/-! ### Command words -/

/-- Settles O6: bit by bit (`ControlLayout.getLsbD_word`). -/
theorem commandWordsSetExactlyTheirBits : Obligations.CommandWordsSetExactlyTheirBits := by
  intro p n h
  simp [cwArmWord, cwNackWord, cwDisarmedWord, ControlLayout.getLsbD_word (Params.control_wf h), or_assoc]

/-- Under a legal layout different control bits make different words. -/
theorem ControlLayout.word_injective {l : ControlLayout} (h : l.wf = true) : Function.Injective l.word :=
  Function.LeftInverse.injective (ControlLayout.fields_word h)

theorem decodeControl_cwArmWord (p : Params) : decodeControl p (cwArmWord p) = .ok .cwArm := if_pos rfl

theorem decodeControl_cwNackWord {p : Params} (h : p.wf = true) : decodeControl p (cwNackWord p) = .ok .cwNack := by
  have harm : cwNackWord p ≠ cwArmWord p := (ControlLayout.word_injective (Params.control_wf h)).ne (by decide)
  rw [decodeControl, if_neg harm, if_pos rfl]

theorem decodeControl_cwDisarmedWord {p : Params} (h : p.wf = true) :
    decodeControl p (cwDisarmedWord p) = .ok .cwDisarmed := by
  have hinj := ControlLayout.word_injective (Params.control_wf h)
  have harm : cwDisarmedWord p ≠ cwArmWord p := hinj.ne (by decide)
  have hnack : cwDisarmedWord p ≠ cwNackWord p := hinj.ne (by decide)
  rw [decodeControl, if_neg harm, if_neg hnack, if_pos rfl]

theorem decodeAddress_addressWord {p : Params} (h : p.wf = true) (a : Addr7) (g : Bool) :
    decodeAddress p (addressWord p a g) = .arWord a g := by
  rw [decodeAddress, addressField_addressWord h, gceField_addressWord h]

/-! ### Words of instructions -/

/-- The instructions that have a word: the rows of the two tables (R72), the command words (R76), the address word
(R77). -/
inductive HasWord (p : Params) (i : Instr) (f : Format) (w : List Byte) : Prop where
  | row (m : Mode) (e : Event) (c : Byte) : e.code p = some c → i = rowInstr m e → f = .status m → w = [c] →
      HasWord p i f w
  | cwArm : i = .cwArm → f = .control → w = [cwArmWord p] → HasWord p i f w
  | cwNack : i = .cwNack → f = .control → w = [cwNackWord p] → HasWord p i f w
  | cwDisarmed : i = .cwDisarmed → f = .control → w = [cwDisarmedWord p] → HasWord p i f w
  | arWord (a : Addr7) (g : Bool) : i = .arWord a g → f = .address → w = [addressWord p a g] → HasWord p i f w

theorem hasWord_of_encodeRow {p : Params} {m : Mode} {e : Event} {i : Instr} {f : Format} {w : List Byte}
    (h : encodeRow p m e = some (f, w)) (hi : i = rowInstr m e) : HasWord p i f w := by
  simp only [encodeRow, Option.map_eq_some_iff] at h
  obtain ⟨c, hc, h⟩ := h
  cases h
  exact .row m e c hc hi rfl rfl

/-- Every word is of one of these kinds; the operations have none (R79). -/
theorem encode_cases {p : Params} {i : Instr} {f : Format} {w : List Byte} (h : encode p i = some (f, w)) :
    HasWord p i f w := by
  cases i with
  | cwArm => cases h; exact .cwArm rfl rfl rfl
  | cwNack => cases h; exact .cwNack rfl rfl rfl
  | cwDisarmed => cases h; exact .cwDisarmed rfl rfl rfl
  | arWord a g => cases h; exact .arWord a g rfl rfl rfl
  | configure _ | arm | disarmAndReset | signal | takeObserve | takeClear | receive _ | respond _ => cases h
  | _ => exact hasWord_of_encodeRow h rfl

/-- R71, R72, R75: the word of a well-formed row selects that row. -/
theorem decodeStatus_of_rowInstr_wf {p : Params} (h : p.wf = true) {m : Mode} {e : Event} {c : Byte}
    (hw : (rowInstr m e).wf p = true) (hc : e.code p = some c) : decodeStatus p m c = rowInstr m e := by
  have hsnap : snapshotOf p c = c := snapshotOf_of_clear (code_clear_of_rowInstr_wf h hw hc)
  refine decodeStatus_of_code h m (hsnap.symm ▸ hc) fun u hu => ?_
  exact ((Params.isUnnamedSnapshot_iff p u).1 (((rowInstr_wf_iff p m e).1 hw).1 u hu)).2

/-- Settles O2: one lemma for each kind of word (`encode_cases`); a row's word selects the row since codes and events
determine each other (`decodeEvent_of_code`). -/
theorem encodedWordDecodesBack : Obligations.EncodedWordDecodesBack := by
  intro p i f w rest h hi hw
  cases encode_cases hw with
  | row m e c hc hrow hf hbyte =>
    subst hrow hf hbyte
    exact congrArg (fun j => Except.ok (j, rest)) (decodeStatus_of_rowInstr_wf h hi hc)
  | cwArm hinstr hf hbyte =>
    subst hinstr hf hbyte
    exact congrArg (Except.map (·, rest)) (decodeControl_cwArmWord p)
  | cwNack hinstr hf hbyte =>
    subst hinstr hf hbyte
    exact congrArg (Except.map (·, rest)) (decodeControl_cwNackWord h)
  | cwDisarmed hinstr hf hbyte =>
    subst hinstr hf hbyte
    exact congrArg (Except.map (·, rest)) (decodeControl_cwDisarmedWord h)
  | arWord a g hinstr hf hbyte =>
    subst hinstr hf hbyte
    exact congrArg (fun j => Except.ok (j, rest)) (decodeAddress_addressWord h a g)

/-- Settles O1: the decoder evaluated on each word. -/
theorem defaultWordsDecodeToTheirInstructions : Obligations.DefaultWordsDecodeToTheirInstructions :=
  ⟨rfl, rfl, rfl, rfl, rfl, rfl, rfl, rfl, rfl, rfl, rfl⟩

/-! ### The outcome port -/

theorem outcomeOfPort_err (m : Mode) (e : ErrorKind) :
    outcomeOfPort m (CallOutcome.err e).tag (CallOutcome.err e).payload = some (.err e) := by
  cases e with
  | unknownState c => cases m <;> simp [outcomeOfPort, CallOutcome.tag, CallOutcome.payload, c.isLt]
  | _ => cases m <;> rfl

/-- Settles O8: the mode tells the two successes apart; an error has its own tag in either mode. -/
theorem outcomePortReadsBack : Obligations.OutcomePortReadsBack := by
  intro m o hreceive hrespond
  cases o with
  | okReceive => rw [hreceive rfl]; rfl
  | okRespond n => rw [hrespond n rfl]; rfl
  | err e => exact outcomeOfPort_err m e

end Sys2Proof

namespace Sys2Proof.Machine

/-! ### The caller's operations -/

/-- R79, R110: the caller's operations are four, and every other instruction is refused from it (U14). -/
theorem callerStep_refused {i : Instr} (s : State)
    (hi : ¬ ((∃ g, i = .configure g) ∨ i = .arm ∨ (∃ b, i = .receive b) ∨ ∃ b, i = .respond b)) :
    callerStep i s = .refused .notACallerOperation := by
  cases i with
  | configure g => exact absurd (.inl ⟨g, rfl⟩) hi
  | arm => exact absurd (.inr (.inl rfl)) hi
  | receive b => exact absurd (.inr (.inr (.inl ⟨b, rfl⟩))) hi
  | respond b => exact absurd (.inr (.inr (.inr ⟨b, rfl⟩))) hi
  | _ => rfl

/-- Settles O59: the step is the caller's move, which `callerStep_refused` refuses in every state. -/
theorem engineOperationsAreRefusedFromTheCaller : Obligations.EngineOperationsAreRefusedFromTheCaller :=
  fun _ _ _ _ hw ha hi => (step_move hw ha).trans (callerStep_refused _ hi)

end Sys2Proof.Machine
end

section
/-! R100 to R110: the Bus Controller primitives. Each answers one state in IDLE and a refusal during a call; the disarmed
controller gives the bus environment and the interrupt context no step. -/

namespace Sys2Proof.Machine

/-! ### The free and the busy polling context -/

theorem whenIdle_idle {s : State} (h : s.phase = .idle) (k : Result) : whenIdle s k = k := if_pos h

theorem whenIdle_busy {s : State} (h : s.phase ≠ .idle) (k : Result) :
    whenIdle s k = .refused .operationDuringCall := if_neg h

theorem startCall_busy {s : State} (h : s.phase ≠ .idle) (m : Mode) (b : List Byte) :
    startCall m b s = .refused .operationDuringCall := if_neg h

/-- R79: the four operations that the caller issues. -/
def IsCallerOperation (i : Instr) : Prop :=
  (∃ g, i = .configure g) ∨ i = .arm ∨ (∃ b, i = .receive b) ∨ ∃ b, i = .respond b

theorem callerStep_of_isCallerOperation {i : Instr} (h : IsCallerOperation i) (s : State) : callerStep i s = exec i s := by
  rcases h with ⟨g, rfl⟩ | rfl | ⟨b, rfl⟩ | ⟨b, rfl⟩ <;> rfl

/-- R110: during a call each of them is refused. -/
theorem exec_busy {i : Instr} (h : IsCallerOperation i) {s : State} (hp : s.phase ≠ .idle) :
    exec i s = .refused .operationDuringCall := by
  rcases h with ⟨g, rfl⟩ | rfl | ⟨b, rfl⟩ | ⟨b, rfl⟩
  · exact whenIdle_busy hp _
  · exact whenIdle_busy hp _
  · exact startCall_busy hp .receive b
  · exact startCall_busy hp .respond b

/-- R110, U14: during a call no move of the caller's is accepted. -/
theorem callerStep_busy (i : Instr) {s : State} (hp : s.phase ≠ .idle) :
    callerStep i s = .refused .operationDuringCall ∨ callerStep i s = .refused .notACallerOperation := by
  by_cases hi : IsCallerOperation i
  · exact .inl ((callerStep_of_isCallerOperation hi s).trans (exec_busy hi hp))
  · exact .inr (callerStep_refused s hi)

/-- Settles O16: the four operations by `exec_busy`; the step is the caller's move, which `callerStep_busy` refuses. -/
theorem operationsDuringACallAreRefused : Obligations.OperationsDuringACallAreRefused := by
  intro s hp
  refine ⟨fun i hi => exec_busy hi hp, fun i gs rest hw ha => ?_⟩
  rw [step_move hw ha]
  exact callerStep_busy i hp

/-! ### `configure` and `arm` -/

/-- R100: `configure` in IDLE, the two writes and what the other agents do between them. -/
theorem exec_configure {s : State} (hp : s.phase = .idle) (g : Bool) :
    exec (.configure g) s = .next (commandDisarm (gap (ioWriteAr (addressWord s.cfg s.addr7 g) s))) :=
  whenIdle_idle hp _

/-- The state after `configure` with nothing between its writes, in full. -/
theorem exec_configure_eq {s : State} (hw : s.cfg.wf = true) (hp : s.phase = .idle) (hg : s.gaps = []) (g : Bool) :
    exec (.configure g) s = .next { s with
      ar := addressWord s.cfg s.addr7 g
      cr := disarmed s.cr.int
      trace := .crWrite (cwDisarmedWord s.cfg) :: .arWrite (addressWord s.cfg s.addr7 g) :: s.trace } := by
  have hgap : gap (ioWriteAr (addressWord s.cfg s.addr7 g) s) = ioWriteAr (addressWord s.cfg s.addr7 g) s :=
    gap_of_gaps_nil hg
  rw [exec_configure hp, hgap, commandDisarm_eq (s := ioWriteAr _ s) hw]
  rfl

/-- What `configure` can answer as a next state, with nothing between its writes: it was issued in IDLE (R110). -/
theorem exec_configure_next {g : Bool} {s t : State} (h : exec (.configure g) s = .next t) (hw : s.cfg.wf = true)
    (hg : s.gaps = []) :
    t = { s with
      ar := addressWord s.cfg s.addr7 g
      cr := disarmed s.cr.int
      trace := .crWrite (cwDisarmedWord s.cfg) :: .arWrite (addressWord s.cfg s.addr7 g) :: s.trace } := by
  rw [exec_configure_eq hw (whenIdle_next h).1 hg, Host.Outcome.next.injEq] at h
  exact h.symm

theorem isDisarmed_commandDisarm {s : State} (hw : s.cfg.wf = true) : isDisarmed (commandDisarm s).cr = true := by
  rw [commandDisarm_eq hw]
  exact isDisarmed_disarmed _

/-- Settles O11: without a gap the state in full; with any, the fields that no other agent touches (`gap_cfg` and its
neighbours), and `CR` by the last write. -/
theorem configureWritesTheAddressAndDisarms : Obligations.ConfigureWritesTheAddressAndDisarms := by
  intro s g hw hp
  refine ⟨fun hg => exec_configure_eq hw hp hg g, _, exec_configure hp g, ?ar, ?disarmed, ?frame⟩
  case ar => simp
  case disarmed => exact isDisarmed_commandDisarm (by simpa using hw)
  case frame => simp

/-- Settles O12: both next states by `exec_configure_next`; the configuration, `addr7` and `INT` of the first are those
of `s`. -/
theorem configureIsIdempotent : Obligations.ConfigureIsIdempotent := by
  intro s t u g h hw hg hst htu
  obtain rfl := exec_configure_next hst hw hg
  obtain rfl := exec_configure_next htu hw hg
  exact ⟨rfl, rfl, rfl, rfl, congrArg (addressWord s.cfg s.addr7), rfl, rfl, rfl, rfl, rfl⟩

/-- Settles O13: both are the command `CW_ARM` (`commandArm_eq`). -/
theorem armArmsInOneWrite : Obligations.ArmArmsInOneWrite := by
  intro s hw
  have harm := congrArg (.next : State → Result) (commandArm_eq hw)
  exact ⟨harm, fun hp => (whenIdle_idle hp _).trans harm, rfl⟩

/-! ### The inert controller -/

/-- R65, R106: a disarmed controller gives the bus environment no step. -/
theorem busEvent_of_isDisarmed {s : State} (h : isDisarmed s.cr = true) (v : Byte) (d : Option Byte) :
    busEvent v d s = s := by
  refine busEvent_eq_self fun ⟨hen, _⟩ => ?_
  simp [(enables_of_isDisarmed h).1, busEnabled_iff] at hen

/-- R106, R127: a disarmed controller requests no interrupt, so the interrupt context has no step. -/
theorem signalStep_of_isDisarmed {s : State} (h : isDisarmed s.cr = true) : signalStep s = s := by
  have hirq : irq s = false := by simp [irq, (enables_of_isDisarmed h).2]
  simp [signalStep, hirq]

/-- R106: a disarm over a disarmed control state leaves it. -/
theorem commandDisarm_commandDisarm_cr {s : State} (hw : s.cfg.wf = true) :
    (commandDisarm (commandDisarm s)).cr = (commandDisarm s).cr := by
  rw [commandDisarm_eq (s := commandDisarm s) hw, commandDisarm_eq hw]
  rfl

/-- Settles O14: the three words by `commandNack_eq` and `commandDisarm_eq`; after the disarm the controller is inert. -/
theorem nackAndDisarmWriteTheirWords : Obligations.NackAndDisarmWriteTheirWords := by
  intro s hw
  have hdisarm := congrArg (.next : State → Result) (commandDisarm_eq hw)
  refine ⟨congrArg Host.Outcome.next (commandNack_eq hw), hdisarm, hdisarm, rfl, isDisarmed_disarmed, ?inert⟩
  case inert =>
    intro t ht
    cases ht
    have hinert := isDisarmed_commandDisarm hw
    refine ⟨busEvent_of_isDisarmed hinert, congrArg Host.Outcome.next (signalStep_of_isDisarmed hinert), ?_⟩
    intro u hu
    cases hu
    exact commandDisarm_commandDisarm_cr hw

end Sys2Proof.Machine
end

section
/-! R121 to R127: the Interrupt Bridge. The request of the level kind, `signal()` while it stands, the two halves of
`take()`, and the steps of the engine that issue them. -/

namespace Sys2Proof.Machine

/-! ### The request and `signal()` -/

/-- R127, R198: the unmasked level request is `INT AND INT_EN`. -/
theorem irq_level {s : State} (hk : s.cfg.irqKind = .level) (hg : s.cfg.globalIe = true) :
    irq s = (s.cr.int && s.cr.intEn) := by
  simp [irq, hk, hg]

/-- The state after a `signal()` that is made, in full, under the level kind. -/
theorem signalStep_eq {s : State} (hk : s.cfg.irqKind = .level) (h : irq s = true) :
    signalStep s = { s with flag := true, trace := .signal :: s.trace } := by
  simp [signalStep, h, hk, State.record]

/-- Without a request `signal()` is no step (log entry 15). -/
theorem signalStep_eq_self {s : State} (h : irq s = false) : signalStep s = s := by
  simp [signalStep, h]

/-- Settles O17: the meaning of `signal` is `signalStep`, which acts exactly while `irq_level` gives a request. -/
theorem signalSetsOnlyTheFlagWhileRequested : Obligations.SignalSetsOnlyTheFlagWhileRequested := by
  intro s hk hg
  refine ⟨fun ⟨hint, hen⟩ => ?requested, fun h => ?unrequested⟩
  case requested => exact congrArg Host.Outcome.next (signalStep_eq hk (by simp [irq_level hk hg, hint, hen]))
  case unrequested =>
    have hirq : irq s = false := by rcases h with h | h <;> simp [irq_level hk hg, h]
    exact congrArg Host.Outcome.next (signalStep_eq_self hirq)

/-! ### The two halves of `take()` -/

/-- Settles O19: the meaning of `take.observe` is `flagRead`, which only adds to the record of accesses. -/
theorem observeReadsTheFlagOnly : Obligations.ObserveReadsTheFlagOnly := fun _ => rfl

/-- Settles O20: the meaning of `take.clear` is `flagClear`, which does not look at the flag. -/
theorem clearResetsTheFlagUnconditionally : Obligations.ClearResetsTheFlagUnconditionally := fun _ => rfl

/-! ### The engine's steps around them -/

/-- R132: the WAIT step. -/
theorem engineStep_wait {s : State} (hp : s.phase = .wait) : engineStep s = .next { s with
    phase := if s.flag then .snapshot else .wait, trace := .flagRead s.flag :: s.trace } := by
  simp only [engineStep, hp, waitStep, observeReadsTheFlagOnly s, andThen]

/-- R133: the SNAPSHOT step. -/
theorem engineStep_snapshot {s : State} (hp : s.phase = .snapshot) : engineStep s = .next { s with
    snapshot := some (snapshotOf s.cfg s.sr)
    event := some (decodeEvent s.cfg (snapshotOf s.cfg s.sr))
    phase := .act
    trace := .srRead s.sr :: s.trace } := by
  simp only [engineStep, hp, snapshotStep, ioReadSr, State.record]

/-- R135: the CLEAR step. -/
theorem engineStep_clear {s : State} (hp : s.phase = .clear) : engineStep s = .next { s with
    flag := false, phase := if s.outcome = none then .wait else .done, trace := .flagClear :: s.trace } := by
  simp only [engineStep, hp, clearStep, clearResetsTheFlagUnconditionally s, andThen]

/-! ### The schedule -/

/-- The step of a scheduled engine move. -/
theorem step_engine {s : State} {gs : List (List EnvMove)} {rest : List Move} (hw : s.cfg.wf = true)
    (ha : s.agenda = .engine gs :: rest) : step s = engineStep { s with agenda := rest, gaps := gs } :=
  step_move hw ha

/-- Log entry 4: with no move left, a request that the flag does not show is served. -/
theorem step_free_signal {s : State} (hw : s.cfg.wf = true) (ha : s.agenda = []) (hirq : irq s = true)
    (hf : s.flag = false) : step s = exec .signal s := by
  simp [step_free hw ha, freeStep, hirq, hf]

/-- Log entry 4: with no move left and nothing to serve, the engine steps. -/
theorem step_free_engine {s : State} (hw : s.cfg.wf = true) (ha : s.agenda = [])
    (h : irq s = false ∨ s.flag = true) : step s = engineStep { s with agenda := [], gaps := [] } := by
  have hnot : (irq s && !s.flag) = false := by rcases h with h | h <;> simp [h]
  simp [step_free hw ha, freeStep, hnot, ← ha]

/-- Settles O24: the step is the engine's in WAIT, whose one access is `take.observe`. -/
theorem waitStepObservesAndSpins : Obligations.WaitStepObservesAndSpins := by
  intro s gs rest hw hp ha
  exact ⟨_, rfl, observeReadsTheFlagOnly _, (step_engine hw ha).trans (engineStep_wait hp)⟩

/-- Settles O30: the two branches of the free schedule, the second against the step of a scheduled engine move. -/
theorem emptyAgendaServesTheRequestOrRunsTheEngine : Obligations.EmptyAgendaServesTheRequestOrRunsTheEngine := by
  intro s hw ha
  refine ⟨fun ⟨hirq, hf⟩ => step_free_signal hw ha hirq hf, fun h => ?_⟩
  exact (step_free_engine hw ha h).trans (step_engine (s := { s with agenda := [.engine []] }) hw rfl).symm

/-! ### A request that outlives the clear -/

/-- R132, R133: with no move left, a waiting call whose flag is set is at its row two steps later: WAIT sees the flag and
SNAPSHOT reads `SR`. -/
theorem run_flag_to_act {s : State} (hw : s.cfg.wf = true) (ha : s.agenda = []) (hp : s.phase = .wait)
    (hf : s.flag = true) : core.run 2 s = .next { s with
      snapshot := some (snapshotOf s.cfg s.sr)
      event := some (decodeEvent s.cfg (snapshotOf s.cfg s.sr))
      phase := .act
      agenda := []
      gaps := []
      trace := .srRead s.sr :: .flagRead s.flag :: s.trace } := by
  have hwait := (step_free_engine hw ha (.inr hf)).trans (engineStep_wait hp)
  rw [run_next hwait]
  exact run_next ((step_free_engine (s := { s with
    agenda := [], gaps := [], phase := if s.flag then .snapshot else .wait, trace := .flagRead s.flag :: s.trace })
    hw rfl (.inr hf)).trans (engineStep_snapshot (if_pos hf)))

/-- R127: a waiting call with its request standing and the flag false: `signal()` sets the flag first. -/
theorem run_request_to_act {s : State} (hw : s.cfg.wf = true) (hk : s.cfg.irqKind = .level) (hirq : irq s = true)
    (ha : s.agenda = []) (hp : s.phase = .wait) (hf : s.flag = false) : core.run 3 s = .next { s with
      flag := true
      snapshot := some (snapshotOf s.cfg s.sr)
      event := some (decodeEvent s.cfg (snapshotOf s.cfg s.sr))
      phase := .act
      agenda := []
      gaps := []
      trace := .srRead s.sr :: .flagRead true :: .signal :: s.trace } := by
  have hsignal := (step_free_signal hw ha hirq hf).trans (congrArg Host.Outcome.next (signalStep_eq hk hirq))
  exact (run_next hsignal).trans (run_flag_to_act hw ha hp rfl)

/-- Settles O54: the CLEAR step makes the flag false and leaves `INT` and `INT_EN`, so the call waits with its request
standing (`run_request_to_act`). -/
theorem levelRequestSurvivesTheClear : Obligations.LevelRequestSurvivesTheClear := by
  intro s gs hw hk hg hp ho hint hen ha
  have hclear := (step_engine hw ha).trans (engineStep_clear hp)
  have hirq : irq s = true := by simp [irq_level hk hg, hint, hen]
  exact ⟨_, (run_next hclear).trans (run_request_to_act hw hk hirq rfl (if_pos ho) rfl), rfl, rfl, rfl, rfl, rfl, rfl⟩

end Sys2Proof.Machine
end

section
/-! R130 to R136: what starts a call, and the steps of the engine after WAIT. -/

namespace Sys2Proof.Machine

/-! ### The start of a call -/

/-- R130, R131: in IDLE a call starts with a buffer that the cursor can count. -/
theorem startCall_idle {s : State} (hp : s.phase = .idle) {b : List Byte} (hb : b.length ≤ s.cfg.maxLen) (m : Mode) :
    startCall m b s = .next { s with
      mode := some m, buf := .ofBytes b, len := some b.length, cursor := some 0, outcome := none, phase := .wait } := by
  simp only [startCall, hp, hb, if_true]

/-- U13: a longer buffer is refused. -/
theorem startCall_tooLong {s : State} (hp : s.phase = .idle) {b : List Byte} (hb : ¬ b.length ≤ s.cfg.maxLen) (m : Mode) :
    startCall m b s = .refused .bufferTooLong := by
  simp only [startCall, hp, hb, if_true, if_false]

/-- Settles O22: `startCall_idle`, with the laws of a caller's buffer. -/
theorem callsStartAtCursorZero : Obligations.CallsStartAtCursorZero := by
  intro s b hp hb
  exact ⟨.ofBytes b, Memory.ofBytes_wf b, Memory.toBytes_ofBytes b, Memory.ofBytes_below b,
    startCall_idle hp hb .receive, startCall_idle hp hb .respond⟩

/-- Settles O23: the length is above `2^CURSOR_BITS − 1`, as a power of two is positive. -/
theorem overlongBufferIsRefused : Obligations.OverlongBufferIsRefused := by
  intro s b hp hb
  have hlong : ¬ b.length ≤ s.cfg.maxLen := by
    have := Nat.two_pow_pos s.cfg.cursorBits
    simp only [Params.maxLen]
    omega
  exact ⟨startCall_tooLong hp hlong .receive, startCall_tooLong hp hlong .respond⟩

/-! ### The engine's steps -/

/-- R134: the ACT step. -/
theorem engineStep_act {s : State} {m : Mode} {e : Event} (hp : s.phase = .act) (hm : s.mode = some m)
    (he : s.event = some e) :
    engineStep s = andThen (exec (rowInstr m e) s) fun t => .next { t with phase := .clear } := by
  simp only [engineStep, hp, actStep, readMode, hm, readEvent, he]

/-- R136: the DONE step. -/
theorem engineStep_done {s : State} {o : CallOutcome} {l : Nat} (hp : s.phase = .done) (ho : s.outcome = some o)
    (hl : s.len = some l) : engineStep s = .next { s with
      delivered := { outcome := o, buf := s.buf, len := l } :: s.delivered
      mode := none, cursor := none, len := none, snapshot := none, event := none, phase := .idle } := by
  simp only [engineStep, hp, returnToCaller, readOutcome, ho, readLen, hl]

/-- R71, R72, R75: the row that a snapshot byte decodes to is that of the event it decodes to. -/
theorem rowInstr_of_decode_snapshot {p : Params} {m : Mode} {v : Byte} {i : Instr} {rest : List Byte}
    (hv : snapshotOf p v = v) (h : decode p (.status m) [v] = .ok (i, rest)) : rowInstr m (decodeEvent p v) = i := by
  simp only [decode, decodeStatus, hv, Except.ok.injEq, Prod.mk.injEq] at h
  exact h.1

/-- Settles O25: the step is the engine's in SNAPSHOT; `&&& ~~~PRESCALER_MASK` is `snapshotOf`. -/
theorem snapshotStepReadsAndDecodes : Obligations.SnapshotStepReadsAndDecodes := by
  intro s gs rest hw hp ha
  exact (step_engine hw ha).trans (engineStep_snapshot hp)

/-- Settles O26: the row of the event is the decoded row, and `andThen` hands on what `exec` of it answers. -/
theorem actStepRunsTheDecodedRow : Obligations.ActStepRunsTheDecodedRow := by
  intro s gs rest m v i hw hp ha hm _ he hv hi
  have hstep := (step_engine hw ha).trans (engineStep_act hp hm he)
  rw [rowInstr_of_decode_snapshot hv hi] at hstep
  refine ⟨fun t ht => ?_, fun r hr => ?_, fun r hr => ?_⟩
  · rw [hstep, ht, andThen]
  · rw [hstep, hr, andThen]
  · rw [hstep, hr, andThen]

/-- Settles O27: the step is the engine's in CLEAR, whose one access is `take.clear`. -/
theorem clearStepClearsAndContinuesOrEnds : Obligations.ClearStepClearsAndContinuesOrEnds := by
  intro s gs rest hw hp ha
  have hstep := (step_engine hw ha).trans (engineStep_clear hp)
  refine ⟨_, rfl, clearResetsTheFlagUnconditionally _, fun ho => ?_, fun ho => ?_⟩
  · rw [hstep, if_pos ho]
  · rw [hstep, if_neg ho]

/-- Settles O28: the step is the engine's in DONE. -/
theorem doneStepReturnsToTheCaller : Obligations.DoneStepReturnsToTheCaller := by
  intro s gs rest o l hw hp ha ho hl
  exact (step_engine hw ha).trans (engineStep_done hp ho hl)

end Sys2Proof.Machine
end

section
/-! R138 to R140, R232, R242: where a step takes the phase, the disarm that comes with an outcome, and the call that nothing
can end. -/

namespace Sys2Proof.Machine

/-! ### The phase -/

/-- R140: the phases a step can lead to, with what each needs. -/
inductive PhaseNext (s : State) : Phase → Prop where
  | stays : PhaseNext s s.phase
  | called : s.phase = .idle → PhaseNext s .wait
  | flagged : s.phase = .wait → s.flag = true → PhaseNext s .snapshot
  | read : s.phase = .snapshot → PhaseNext s .act
  | acted : s.phase = .act → PhaseNext s .clear
  | continued : s.phase = .clear → s.outcome = none → PhaseNext s .wait
  | ended : s.phase = .clear → s.outcome ≠ none → PhaseNext s .done
  | returned : s.phase = .done → PhaseNext s .idle

/-- Another schedule gives the same successors. -/
theorem PhaseNext.schedule {s : State} {agenda : List Move} {gs : List (List EnvMove)} {p : Phase}
    (h : PhaseNext { s with agenda := agenda, gaps := gs } p) : PhaseNext s p := by
  cases h with
  | stays => exact .stays
  | called hp => exact .called hp
  | flagged hp hf => exact .flagged hp hf
  | read hp => exact .read hp
  | acted hp => exact .acted hp
  | continued hp ho => exact .continued hp ho
  | ended hp ho => exact .ended hp ho
  | returned hp => exact .returned hp

theorem EngineNext.phase {s t : State} (h : EngineNext s t) : PhaseNext s t.phase := by
  cases h with
  | idle _ ht => exact ht ▸ .stays
  | wait hp ht =>
    cases hf : s.flag with
    | true => simpa [ht, hf] using .flagged hp hf
    | false => simpa [ht, hf, hp] using PhaseNext.stays (s := s)
  | snapshot hp ht => exact ht ▸ .read hp
  | act m e u hp _ _ _ ht => exact ht ▸ .acted hp
  | clear hp ht =>
    by_cases ho : s.outcome = none
    · simpa [ht, ho] using .continued hp ho
    · simpa [ht, ho] using .ended hp ho
  | done o l hp _ _ ht => exact ht ▸ .returned hp

theorem CallerNext.phase {op : Instr} {s t : State} (h : CallerNext op s t) : PhaseNext s t.phase := by
  cases h with
  | call m b _ hp _ ht => exact ht ▸ .called hp
  | configure g _ _ ht => simpa [ht] using PhaseNext.stays (s := s)
  | arm _ _ ht => exact ht ▸ .stays

theorem step_phase {s t : State} (h : step s = .next t) : PhaseNext s t.phase := by
  cases step_cases h with
  | engine u gs rest hu hstep => exact PhaseNext.schedule (hu ▸ (engineStep_cases hstep).phase)
  | caller u op gs rest _ hu hstep => exact PhaseNext.schedule (hu ▸ (callerStep_cases hstep).phase)
  | env u e rest hu ht => simpa [ht, hu] using PhaseNext.stays (s := s)

theorem phaseSuccessor_refl (p : Phase) : phaseSuccessor p p = true := by
  cases p <;> rfl

theorem PhaseNext.phaseSuccessor {s : State} {p : Phase} (h : PhaseNext s p) : phaseSuccessor s.phase p = true := by
  cases h with
  | stays => exact phaseSuccessor_refl s.phase
  | called hp => rw [hp]; rfl
  | flagged hp _ => rw [hp]; rfl
  | read hp => rw [hp]; rfl
  | acted hp => rw [hp]; rfl
  | continued hp _ => rw [hp]; rfl
  | ended hp _ => rw [hp]; rfl
  | returned hp => rw [hp]; rfl

/-- Settles O46: `step_phase` gives no other pair. -/
theorem phaseMovesOnlyToItsSuccessors : Obligations.PhaseMovesOnlyToItsSuccessors :=
  fun _ _ h => (step_phase h).phaseSuccessor

/-- R138: the one way out of WAIT. -/
theorem PhaseNext.leavesWait {s : State} {p : Phase} (h : PhaseNext s p) (hs : s.phase = .wait) (hp : p ≠ .wait) :
    s.flag = true ∧ p = .snapshot := by
  cases h with
  | stays => exact absurd hs hp
  | flagged _ hf => exact ⟨hf, rfl⟩
  | called _ => exact absurd rfl hp
  | continued _ _ => exact absurd rfl hp
  | read hs' => cases hs.symm.trans hs'
  | acted hs' => cases hs.symm.trans hs'
  | ended hs' _ => cases hs.symm.trans hs'
  | returned hs' => cases hs.symm.trans hs'

/-- Settles O47: `step_phase` leaves WAIT only by its case of a true flag. -/
theorem waitIsLeftOnlyOnATrueFlag : Obligations.WaitIsLeftOnlyOnATrueFlag :=
  fun _ _ h hs ht => (step_phase h).leavesWait hs ht

/-! ### The outcome -/

/-- R139: of the engine's steps only a row raises an outcome, and it disarms. -/
theorem EngineNext.raise_disarms {s t : State} (h : EngineNext s t) (hw : s.cfg.wf = true) (hs : s.outcome = none)
    (ht : t.outcome ≠ none) : isDisarmed t.cr = true ∧ t.phase = .clear := by
  cases h with
  | act m e u _ _ _ hr hu =>
    subst hu
    rcases hr.control hw with ⟨hsame, _⟩ | ⟨_, hdis⟩
    · exact absurd (hsame.trans hs) ht
    · exact ⟨hdis, rfl⟩
  | idle _ hu => subst hu; exact absurd hs ht
  | wait _ hu => subst hu; exact absurd hs ht
  | snapshot _ hu => subst hu; exact absurd hs ht
  | clear _ hu => subst hu; exact absurd hs ht
  | done _ _ _ _ _ hu => subst hu; exact absurd hs ht

/-- The caller raises no outcome. -/
theorem CallerNext.outcome_none {op : Instr} {s t : State} (h : CallerNext op s t) (hs : s.outcome = none) :
    t.outcome = none := by
  cases h with
  | call m b _ _ _ ht => rw [ht]
  | configure g _ _ ht => simp [ht, hs]
  | arm _ _ ht => simp [ht, hs]

/-- Settles O48: the outcome is raised by the engine (`EngineNext.raise_disarms`), as no other agent raises one. -/
theorem raisingAnOutcomeDisarms : Obligations.RaisingAnOutcomeDisarms := by
  intro s t h hs ht
  have hw := step_cfg h
  cases step_cases h with
  | engine u gs rest hu hstep =>
    subst hu
    exact (engineStep_cases hstep).raise_disarms hw hs ht
  | caller u op gs rest _ hu hstep =>
    subst hu
    exact absurd ((callerStep_cases hstep).outcome_none hs) ht
  | env u e rest hu hstep =>
    subst hu hstep
    exact absurd (by simpa using hs) ht

/-! ### The call that never returns -/

/-- R232 (b), R242: a call in WAIT with the flag false on a disarmed controller, and no move of the caller to come. -/
structure Spinning (s : State) : Prop where
  cfgOk : s.cfg.wf = true
  phase : s.phase = .wait
  flag : s.flag = false
  disarmed : isDisarmed s.cr = true
  noCaller : ∀ m ∈ s.agenda, ∀ i gs, m ≠ .caller i gs

/-- With no flag to see, the engine observes and stays. -/
theorem Spinning.engineStep {s : State} (h : Spinning s) :
    engineStep s = .next { s with trace := .flagRead s.flag :: s.trace } := by
  rw [engineStep_wait h.phase]
  simp [h.flag, ← h.phase]

/-- Whatever the next move is, it is made and the call goes on spinning. -/
theorem Spinning.step {s : State} (h : Spinning s) : ∃ t, step s = .next t ∧ Spinning t ∧ t.outcome = s.outcome ∧
    t.buf = s.buf ∧ t.cr = s.cr := by
  have hirq : irq s = false := by simp [irq, (enables_of_isDisarmed h.disarmed).2]
  cases ha : s.agenda with
  | nil =>
    have hu : Spinning { s with agenda := [], gaps := [] } := { h with noCaller := by simp }
    exact ⟨_, (step_free_engine h.cfgOk ha (.inl hirq)).trans hu.engineStep, { hu with }, rfl, rfl, rfl⟩
  | cons m rest =>
    have hrest : ∀ m ∈ rest, ∀ i gs, m ≠ .caller i gs :=
      fun m hm => h.noCaller m (ha ▸ List.mem_cons_of_mem _ hm)
    cases m with
    | engine gs =>
      have hu : Spinning { s with agenda := rest, gaps := gs } := { h with noCaller := hrest }
      exact ⟨_, (step_engine h.cfgOk ha).trans hu.engineStep, { hu with }, rfl, rfl, rfl⟩
    | caller i gs => exact absurd rfl (h.noCaller (.caller i gs) (ha ▸ List.mem_cons_self) i gs)
    | env e =>
      obtain ⟨hen, hint⟩ := enables_of_isDisarmed h.disarmed
      obtain ⟨hcr, hflag, -, -⟩ := envStep_disarmed (s := { s with agenda := rest }) e hen hint
      refine ⟨_, step_env h.cfgOk ha, ⟨?_, ?_, hflag.trans h.flag, ?_, ?_⟩, ?_, ?_, hcr⟩
      · simpa using h.cfgOk
      · simpa using h.phase
      · simpa using h.disarmed
      · simpa using hrest
      · simp
      · simp

/-- Settles O53: `Spinning` is kept by every step, by induction on the number of steps. -/
theorem unarmedCallNeverReturns : Obligations.UnarmedCallNeverReturns := by
  intro n s hw hp hf hd hcaller
  have h : Spinning s := ⟨hw, hp, hf, hd, hcaller⟩
  clear hw hp hf hd hcaller
  induction n generalizing s with
  | zero => exact ⟨s, rfl, h.phase, h.flag, rfl, rfl, rfl⟩
  | succ n ih =>
    obtain ⟨u, hstep, hu, ho, hb, hc⟩ := h.step
    obtain ⟨t, hrun, htp, htf, hto, htb, htc⟩ := ih u hu
    exact ⟨t, (run_next hstep).trans hrun, htp, htf, hto.trans ho, htb.trans hb, htc.trans hc⟩

end Sys2Proof.Machine
end

section
/-! R134, R144: two runs of a row that differ only in what the other agents do between its accesses. `quiet` takes away
what those agents write; a gap does not show in it, every access of the polling context acts on it alone, and so a row
that completes in one run completes in the other (`QuietRefines`), operand by operand and access by access. -/

namespace Sys2Proof.Machine

/-! ### The state without the other agents' part -/

/-- The state with the fields that the other agents write set to fixed values, and with their steps taken out of the
record. -/
def quiet (s : State) : State :=
  { s with
    cr := { s.cr with int := false }
    sr := 0#8
    dr := 0#8
    flag := false
    edge := false
    trace := ownTrace s
    gaps := [] }

theorem quiet_signalStep (s : State) : quiet (signalStep s) = quiet s := by
  unfold signalStep
  split <;> rfl

theorem quiet_busEvent (v : Byte) (d : Option Byte) (s : State) : quiet (busEvent v d s) = quiet s := by
  unfold busEvent
  split <;> rfl

theorem quiet_envStep (e : EnvMove) (s : State) : quiet (envStep e s) = quiet s := by
  cases e with
  | signal => exact quiet_signalStep s
  | bus v d => exact quiet_busEvent v d s
  | prescaler v => rfl

theorem quiet_envSteps (es : List EnvMove) (s : State) : quiet (envSteps es s) = quiet s := by
  induction es generalizing s with
  | nil => rfl
  | cons e es ih => exact (ih _).trans (quiet_envStep e s)

/-- R134: whatever happens between two accesses, it does not show. -/
@[simp] theorem quiet_gap (s : State) : quiet (gap s) = quiet s := by
  unfold gap
  split
  · rfl
  · exact quiet_envSteps _ _

theorem quiet_record {a : Access} (ha : a.isOwn = true) (s : State) : quiet (s.record a) = (quiet s).record a := by
  simp [quiet, State.record, ownTrace, ha]

@[simp] theorem quiet_setCursor (c : Option Nat) (s : State) :
    quiet { s with cursor := c } = { quiet s with cursor := c } := rfl

@[simp] theorem quiet_ioWriteDr (v : Byte) (s : State) : quiet (ioWriteDr v s) = (quiet s).record (.drWrite v) := rfl

@[simp] theorem quiet_commandArm (s : State) : quiet (commandArm s) = commandArm (quiet s) := rfl

@[simp] theorem quiet_commandNack (s : State) : quiet (commandNack s) = commandNack (quiet s) := rfl

@[simp] theorem quiet_raise (o : CallOutcome) (s : State) : quiet (raise o s) = raise o (quiet s) := rfl

@[simp] theorem quiet_nackThenRaise (o : CallOutcome) (s : State) :
    quiet (nackThenRaise o s) = raise o (commandNack (quiet s)) := by
  simp [nackThenRaise]

@[simp] theorem quiet_padByteNack (s : State) :
    quiet (padByteNack s) = commandNack ((quiet s).record (.drWrite padByte)) := by
  simp [padByteNack]

/-! ### Results that agree but for the other agents -/

/-- Where `r` completes, so does `r'`, in a state that differs only in the other agents' part. -/
def QuietRefines (r r' : Result) : Prop := ∀ t, r = .next t → ∃ u, r' = .next u ∧ quiet t = quiet u

theorem QuietRefines.next {t u : State} (h : quiet t = quiet u) : QuietRefines (.next t) (.next u) := by
  intro t' ht
  cases ht
  exact ⟨u, rfl, h⟩

theorem QuietRefines.fault (e : Fault) (r : Result) : QuietRefines (.fault e) r :=
  fun _ ht => nomatch ht

section
variable {s s' : State} (h : quiet s = quiet s')
include h

theorem cursor_of_quiet : s.cursor = s'.cursor := (congrArg State.cursor h :)
theorem len_of_quiet : s.len = s'.len := (congrArg State.len h :)
theorem snapshot_of_quiet : s.snapshot = s'.snapshot := (congrArg State.snapshot h :)
theorem buf_of_quiet : s.buf = s'.buf := (congrArg State.buf h :)
theorem cfg_of_quiet : s.cfg = s'.cfg := (congrArg State.cfg h :)

theorem QuietRefines.readCursor {k k' : Nat → Result} (hk : ∀ c, QuietRefines (k c) (k' c)) :
    QuietRefines (readCursor s k) (readCursor s' k') := by
  simp only [Machine.readCursor, cursor_of_quiet h]
  split
  · exact hk _
  · exact .fault _ _

theorem QuietRefines.readLen {k k' : Nat → Result} (hk : ∀ l, QuietRefines (k l) (k' l)) :
    QuietRefines (readLen s k) (readLen s' k') := by
  simp only [Machine.readLen, len_of_quiet h]
  split
  · exact hk _
  · exact .fault _ _

theorem QuietRefines.readSnapshot {k k' : Byte → Result} (hk : ∀ v, QuietRefines (k v) (k' v)) :
    QuietRefines (readSnapshot s k) (readSnapshot s' k') := by
  simp only [Machine.readSnapshot, snapshot_of_quiet h]
  split
  · exact hk _
  · exact .fault _ _

theorem QuietRefines.memRead {i : Nat} {k k' : Byte → State → Result}
    (hk : ∀ v t t', quiet t = quiet t' → QuietRefines (k v t) (k' v t')) :
    QuietRefines (memRead i s k) (memRead i s' k') := by
  refine .readLen h fun l => ?_
  split
  · rw [buf_of_quiet h]
    exact hk _ _ _ (by simp only [quiet_record (a := .bufRead _ _) rfl, h])
  · exact .fault _ _

theorem QuietRefines.memWrite {i : Nat} {v : Byte} {k k' : State → Result}
    (hk : ∀ t t', quiet t = quiet t' → QuietRefines (k t) (k' t')) :
    QuietRefines (memWrite i v s k) (memWrite i v s' k') := by
  have hbuf : ∀ b, quiet { s with buf := b } = quiet { s' with buf := b } :=
    fun b => congrArg (fun t : State => { t with buf := b }) h
  refine .readLen h fun l => ?_
  split
  · rw [buf_of_quiet h]
    exact hk _ _ (by simp only [quiet_record (a := .bufWrite _ _) rfl, hbuf])
  · exact .fault _ _

/-! ### The rows -/

theorem unknownState_quiet : QuietRefines (unknownState s) (unknownState s') :=
  .readSnapshot h fun v => .next (by simp [h])

theorem succeedWithCount_quiet : QuietRefines (succeedWithCount s) (succeedWithCount s') :=
  .readCursor h fun c => .next (by simp [h])

theorem loadByte_quiet (c : Nat) : QuietRefines (loadByte c s) (loadByte c s') :=
  .memRead h fun v t t' ht => .next (by simp only [quiet_commandArm, quiet_gap, quiet_setCursor, quiet_ioWriteDr, ht])

theorem execTxStSlaAck_quiet : QuietRefines (execTxStSlaAck s) (execTxStSlaAck s') := by
  refine .readCursor h fun c => .readLen h fun l => ?_
  split
  · exact .next (by simp [h])
  · exact loadByte_quiet h c

theorem execTxStDataAck_quiet : QuietRefines (execTxStDataAck s) (execTxStDataAck s') := by
  refine .readCursor h fun c => .readLen h fun l => ?_
  split
  · exact .next (by simp [h])
  · exact loadByte_quiet h c

/-- R155: the byte stored is the one in `DR` before anything can happen between two accesses. -/
theorem storeByte_quiet (hdr : s.dr = s'.dr) : QuietRefines (storeByte s) (storeByte s') := by
  refine .readCursor h fun c => .readLen h fun l => ?_
  split
  · exact .next (by simp [h])
  · simp only [ioReadDr, hdr]
    refine .memWrite ?_ fun t t' ht => .next (by simp [ht])
    simp [quiet_record (a := .drRead _) rfl, h]

/-- R134, R144: a row acts on the polling context's part of the state and on the byte in `DR` at its start. -/
theorem row_quiet (hdr : s.dr = s'.dr) (m : Mode) (e : Event) :
    QuietRefines (exec (rowInstr m e) s) (exec (rowInstr m e) s') := by
  have hrearm : QuietRefines (.next (commandArm s)) (.next (commandArm s')) := .next (by simp [h])
  have hraise : ∀ o, QuietRefines (.next (raise o s)) (.next (raise o s')) := fun o => .next (by simp [h])
  have hnack : ∀ o, QuietRefines (.next (nackThenRaise o s)) (.next (nackThenRaise o s')) := fun o => .next (by simp [h])
  cases m with
  | receive =>
    cases e with
    | srSlaAck => exact hrearm
    | srArbSlaAck => exact hnack _
    | srGcallAck => exact hrearm
    | srArbGcallAck => exact hnack _
    | srDataAck => exact storeByte_quiet h hdr
    | srDataFinal => exact hraise _
    | srGcallDataAck => exact storeByte_quiet h hdr
    | srStop => exact hraise _
    | stSlaAck => exact .next (by simp [h, cfg_of_quiet h])
    | _ => exact unknownState_quiet h
  | respond =>
    cases e with
    | srSlaAck => exact hraise _
    | stSlaAck => exact execTxStSlaAck_quiet h
    | stArbSlaAck => exact hnack _
    | stDataAck => exact execTxStDataAck_quiet h
    | stDataNack => exact succeedWithCount_quiet h
    | stLastData => exact succeedWithCount_quiet h
    | _ => exact unknownState_quiet h

/-- No field of `RowFrame` is one that the other agents write. -/
theorem RowFrame.of_quiet : RowFrame s' s where
  cfg := (congrArg State.cfg h :)
  addr7 := (congrArg State.addr7 h :)
  mode := (congrArg State.mode h :)
  len := (congrArg State.len h :)
  snapshot := (congrArg State.snapshot h :)
  event := (congrArg State.event h :)
  phase := (congrArg State.phase h :)
  ar := (congrArg State.ar h :)
  delivered := (congrArg State.delivered h :)
  agenda := (congrArg State.agenda h :)

end

/-- Settles O42: the two starting states differ only in the gaps, which `quiet` takes away. -/
theorem interleavingDoesNotChangeARow : Obligations.InterleavingDoesNotChangeARow := by
  intro s t m e gs _ ht
  have hstart : quiet { s with gaps := gs } = quiet { s with gaps := [] } := rfl
  obtain ⟨u, hu, htu⟩ := row_quiet hstart rfl m e t ht
  have hcr : (quiet t).cr = (quiet u).cr := congrArg State.cr htu
  exact ⟨u, hu, (congrArg State.outcome htu :), cursor_of_quiet htu, buf_of_quiet htu, (congrArg Control.ackEn hcr :),
    (congrArg Control.en hcr :), (congrArg Control.intEn hcr :), (congrArg Control.start hcr :),
    (congrArg Control.stop hcr :), .of_quiet htu, (congrArg State.trace htu :)⟩

end Sys2Proof.Machine
end

section
/-! R143: the accesses of one event, in order, from the true flag to the clear. -/

namespace Sys2Proof.Machine

/-! ### The accesses of a row -/

/-- R143: the control writes of a row that leaves the outcome `o`, the latest first. -/
inductive RowControl (p : Params) (o : Option CallOutcome) : List Access → Prop where
  | arm : o = none → RowControl p o [.crWrite (cwArmWord p)]
  | nack : o = none → RowControl p o [.crWrite (cwNackWord p)]
  | disarm : o ≠ none → RowControl p o [.crWrite (cwDisarmedWord p)]
  | nackDisarm : o ≠ none → RowControl p o [.crWrite (cwDisarmedWord p), .crWrite (cwNackWord p)]

/-- R143: the accesses of a row to `DR` and to the buffer, the latest first. -/
inductive RowData : List Access → Prop where
  | none : RowData []
  | store (i : Nat) (v : Byte) : RowData [.bufWrite i v, .drRead v]
  | load (i : Nat) (v : Byte) : RowData [.drWrite v, .bufRead i v]
  | write (v : Byte) : RowData [.drWrite v]

theorem RowControl.counts {p : Params} {o : Option CallOutcome} {control : List Access} (h : RowControl p o control) :
    (∀ a ∈ control, a.isCrWrite = true) ∧ 1 ≤ control.length ∧ control.length ≤ 2 := by
  cases h <;> simp [Access.isCrWrite]

/-- A row that goes on issues one control write. -/
theorem RowControl.of_continues {p : Params} {control : List Access} (h : RowControl p none control) :
    control = [.crWrite (cwArmWord p)] ∨ control = [.crWrite (cwNackWord p)] := by
  cases h with
  | arm => exact .inl rfl
  | nack => exact .inr rfl
  | disarm ho => exact absurd rfl ho
  | nackDisarm ho => exact absurd rfl ho

/-- A row that ends the call disarms last (R139). -/
theorem RowControl.of_ends {p : Params} {o : Option CallOutcome} {control : List Access} (h : RowControl p o control)
    (ho : o ≠ none) : control.head? = some (.crWrite (cwDisarmedWord p)) := by
  cases h with
  | arm hn => exact absurd hn ho
  | nack hn => exact absurd hn ho
  | disarm => rfl
  | nackDisarm => rfl

theorem RowData.counts {data : List Access} (h : RowData data) :
    (∀ a ∈ data, a.isDr = true ∨ a.isBuf = true) ∧ (data.filter Access.isDr).length ≤ 1 ∧
      (data.filter Access.isBuf).length ≤ 1 := by
  cases h <;> simp [List.filter, Access.isDr, Access.isBuf]

/-- R143: a row's own accesses are its data accesses and then its control writes. -/
theorem RowNext.ownAccesses {m : Mode} {e : Event} {s t : State} (h : RowNext m e s t) (hs : s.outcome = none) :
    ∃ control data, ownTrace t = control ++ (data ++ ownTrace s) ∧ RowControl s.cfg t.outcome control ∧
      RowData data := by
  cases h with
  | rearm => exact ⟨_, _, ownTrace_commandArm s, .arm hs, .none⟩
  | arbitration =>
    obtain ⟨-, -, -, ho, htrace⟩ := nackThenRaise_frame (.err .arbitrationLost) s
    exact ⟨_, _, htrace, .nackDisarm (by simp [ho]), .none⟩
  | store c l =>
    obtain ⟨-, -, ho, -, htrace⟩ := stored_frame c s
    exact ⟨_, _, htrace, .arm (ho.trans hs), .store c s.dr⟩
  | readInReceive =>
    obtain ⟨-, -, -, ho, htrace⟩ := nackThenRaise_frame (.err .notExpectedTransactionDirection)
      (gap (ioWriteDr s.cfg.dummyByte s))
    exact ⟨_, _, by simpa using htrace, .nackDisarm (by simp [ho]), .write s.cfg.dummyByte⟩
  | load c l =>
    obtain ⟨-, -, ho, -, htrace⟩ := loaded_frame c s
    exact ⟨_, _, htrace, .arm (ho.trans hs), .load c (s.buf.read c)⟩
  | pad =>
    obtain ⟨-, -, ho, -, htrace⟩ := padByteNack_frame s
    exact ⟨_, _, htrace, .nack (ho.trans hs), .write padByte⟩
  | padAndEnd c =>
    obtain ⟨hframe, -, -, -, htrace⟩ := padByteNack_frame s
    exact ⟨_, _, by simp [htrace, hframe.cfg], .nackDisarm (by simp), .write padByte⟩
  | overflow => exact ⟨_, _, ownTrace_raise _ s, .disarm (by simp), .none⟩
  | ended => exact ⟨_, _, ownTrace_raise _ s, .disarm (by simp), .none⟩
  | writeInRespond => exact ⟨_, _, ownTrace_raise _ s, .disarm (by simp), .none⟩
  | unknown => exact ⟨_, _, ownTrace_raise _ s, .disarm (by simp), .none⟩
  | counted => exact ⟨_, _, ownTrace_raise _ s, .disarm (by simp), .none⟩

/-! ### The four steps of one event -/

/-- R132, R133: a waiting call whose flag is set is at its row after two engine moves. -/
theorem run_engine_to_act {s : State} {g1 g2 : List (List EnvMove)} {rest : List Move} (hw : s.cfg.wf = true)
    (hp : s.phase = .wait) (hf : s.flag = true) (ha : s.agenda = .engine g1 :: .engine g2 :: rest) :
    core.run 2 s = .next { s with
      snapshot := some (snapshotOf s.cfg s.sr)
      event := some (decodeEvent s.cfg (snapshotOf s.cfg s.sr))
      phase := .act
      agenda := rest
      gaps := g2
      trace := .srRead s.sr :: .flagRead s.flag :: s.trace } := by
  rw [run_next ((step_engine hw ha).trans (engineStep_wait hp))]
  exact run_next ((step_engine (s := { s with
    agenda := .engine g2 :: rest, gaps := g1, phase := if s.flag then .snapshot else .wait,
    trace := .flagRead s.flag :: s.trace }) hw rfl).trans (engineStep_snapshot (if_pos hf)))

/-- A run of one step more makes that step first. -/
theorem run_succ_next {n : Nat} {s t : State} (h : core.run (n + 1) s = .next t) :
    ∃ u, step s = .next u ∧ core.run n u = .next t := by
  have hrun := Host.Core.run.eq_2 core s n
  cases hs : step s with
  | next u => exact ⟨u, rfl, (run_next hs).symm.trans h⟩
  | fault r =>
    rw [show core.step s = .fault r from hs] at hrun
    cases hrun.symm.trans h
  | refused r =>
    rw [show core.step s = .refused r from hs] at hrun
    cases hrun.symm.trans h

/-- Every run keeps the invariant. -/
theorem Inv.run {n : Nat} {s t : State} (h : Inv s) (ht : core.run n s = .next t) : Inv t := by
  induction n generalizing s with
  | zero =>
    cases (ht : (.next s : Result) = .next t)
    exact h
  | succ n ih =>
    obtain ⟨u, hu, hrun⟩ := run_succ_next ht
    exact ih (h.step hu) hrun

/-- R134: from the invariant the ACT step completes, with what a row can answer. -/
theorem Inv.step_act {s : State} {gs : List (List EnvMove)} {rest : List Move} (h : Inv s) (hp : s.phase = .act)
    (ha : s.agenda = .engine gs :: rest) :
    ∃ m e u, RowNext m e { s with agenda := rest, gaps := gs } u ∧
      Machine.step s = .next { u with phase := .clear } := by
  obtain ⟨t, ht⟩ := (h.schedule rest gs).engineStep_total
  cases engineStep_cases ht with
  | act m e u _ _ _ hr hu => exact ⟨m, e, u, hr, (step_engine h.cfgOk ha).trans (hu ▸ ht)⟩
  | idle hp' => cases hp.symm.trans hp'
  | wait hp' => cases hp.symm.trans hp'
  | snapshot hp' => cases hp.symm.trans hp'
  | clear hp' => cases hp.symm.trans hp'
  | done _ _ hp' => cases hp.symm.trans hp'

/-- R134, R135: a row and the clear after it. -/
theorem Inv.run_act_clear {s : State} {g3 g4 : List (List EnvMove)} {rest : List Move} (h : Inv s) (hp : s.phase = .act)
    (ha : s.agenda = .engine g3 :: .engine g4 :: rest) :
    ∃ t control data, core.run 2 s = .next t ∧ t.agenda = rest ∧
      ownTrace t = .flagClear :: (control ++ (data ++ ownTrace s)) ∧ RowControl s.cfg t.outcome control ∧ RowData data ∧
      t.phase = if t.outcome = none then .wait else .done := by
  obtain ⟨m, e, u, hr, hact⟩ := h.step_act hp ha
  have hw : u.cfg.wf = true := hr.frame.cfg ▸ h.cfgOk
  obtain ⟨control, data, htrace, hcontrol, hdata⟩ := hr.ownAccesses (h.undecided (.inr (.inr hp)))
  have hclear := (step_engine (s := { u with phase := .clear }) hw hr.frame.agenda).trans (engineStep_clear rfl)
  refine ⟨_, control, data, (run_next hact).trans (run_next hclear), rfl, ?_, hcontrol, hdata, rfl⟩
  exact (ownTrace_eq_of_trace (s := u) rfl rfl).trans (congrArg _ htrace)

/-- Settles O52: WAIT and SNAPSHOT by `run_engine_to_act`, ACT and CLEAR by `Inv.run_act_clear`; the counts are those of
`RowControl` and `RowData`. -/
theorem oneEventIsHandledInOrder : Obligations.OneEventIsHandledInOrder := by
  intro s g1 g2 g3 g4 rest h hp hf ha
  have hread := run_engine_to_act h.cfgOk hp hf ha
  obtain ⟨t, control, data, hrow, hagenda, htrace, hcontrol, hdata, hphase⟩ := (h.run hread).run_act_clear rfl rfl
  obtain ⟨hcr, hpos, hle⟩ := hcontrol.counts
  obtain ⟨hdr, honeDr, honeBuf⟩ := hdata.counts
  refine ⟨t, control, data, (run_add 2 2 hread).trans hrow, hagenda, ?trace, hcr, hdr, honeDr, honeBuf, hpos, hle, ?_⟩
  case trace =>
    simp only [hf] at htrace
    exact htrace
  by_cases ho : t.outcome = none
  · rw [if_pos ho] at hphase
    exact ⟨fun _ => (ho ▸ hcontrol).of_continues, by simp [hphase], .inl hphase⟩
  · rw [if_neg ho] at hphase
    exact ⟨by simp [hphase], fun _ => hcontrol.of_ends ho, .inr hphase⟩

end Sys2Proof.Machine
end

section
/-! R151 to R160, R174, R176: what the rows of RECEIVE, and the rows of RESPOND that share their actions, leave of the whole
state. -/

namespace Sys2Proof.Machine

/-! ### The shared actions with nobody moving in between -/

/-- R152, R154, R174: the whole next state of NACK-next, disarm and raise with nobody moving between the two writes. -/
theorem nackThenRaise_eq (o : CallOutcome) {s : State} (hw : s.cfg.wf = true) (hg : s.gaps = []) :
    nackThenRaise o s = { s with
      cr := disarmed false
      outcome := some o
      trace := .crWrite (cwDisarmedWord s.cfg) :: .crWrite (cwNackWord s.cfg) :: s.trace } := by
  rw [nackThenRaise, gap_of_gaps_nil (by simpa using hg), raise_eq o (by simpa using hw), commandNack_eq hw]
  rfl

/-- R155: the whole next state of the stored byte with nobody moving between the accesses. -/
theorem stored_eq (c : Nat) {s : State} (hw : s.cfg.wf = true) (hg : s.gaps = []) :
    stored c s = { s with
      buf := s.buf.write c s.dr
      cursor := some (c + 1)
      cr := rearmed
      trace := .crWrite (cwArmWord s.cfg) :: .bufWrite c s.dr :: .drRead s.dr :: s.trace } := by
  have hread : gap (s.record (.drRead s.dr)) = s.record (.drRead s.dr) := gap_of_gaps_nil hg
  rw [stored, hread, gap_of_gaps_nil (by simpa using hg), commandArm_eq (by simpa using hw)]
  rfl

/-- R160, R176: the whole next state of a default row. -/
theorem unknownState_eq {s : State} {v : Byte} (hw : s.cfg.wf = true) (hv : s.snapshot = some v) :
    unknownState s = .next { s with
      cr := disarmed s.cr.int
      outcome := some (.err (.unknownState v))
      trace := .crWrite (cwDisarmedWord s.cfg) :: s.trace } :=
  (unknownState_next hv).trans (congrArg Host.Outcome.next (raise_eq _ hw))

/-! ### The rows -/

/-- Settles O31: both rows are the re-arm. -/
theorem receiveAddressRowsRearm : Obligations.ReceiveAddressRowsRearm := by
  intro s i hi hw
  have hexec : exec i s = .next (commandArm s) := by rcases hi with rfl | rfl <;> rfl
  rw [hexec, commandArm_eq hw]

/-- Settles O32: the three rows are `nackThenRaise`. -/
theorem arbitrationLossRowsNackThenDisarm : Obligations.ArbitrationLossRowsNackThenDisarm := by
  intro s i hi hw
  have hexec : exec i s = .next (nackThenRaise (.err .arbitrationLost) s) := by rcases hi with rfl | rfl | rfl <;> rfl
  obtain ⟨hframe, hcursor, hbuf, ho, htrace⟩ := nackThenRaise_frame (.err .arbitrationLost) s
  refine ⟨_, hexec, ho, nackThenRaise_disarmed _ hw, hcursor, fun a => by rw [hbuf], hbuf, hframe, htrace, fun hg => ?_⟩
  rw [nackThenRaise_eq _ hw hg]
  exact ⟨rfl, rfl, rfl, rfl, rfl⟩

/-- Settles O33: both rows are `storeByte`, whose two paths are `stored` and the overflow. -/
theorem receiveDataRowsStoreOrOverflow : Obligations.ReceiveDataRowsStoreOrOverflow := by
  intro s i c l hi hw hwf hc hl
  have hexec : exec i s = storeByte s := by rcases hi with rfl | rfl <;> rfl
  rw [hexec]
  refine ⟨fun hlt => ?room, fun hcl => ?full⟩
  case room =>
    obtain ⟨hframe, hcursor, ho, hbuf, htrace⟩ := stored_frame c s
    refine ⟨_, storeByte_room hc hl hlt, by simp [hbuf, Memory.read_write hwf],
      fun a ha => by simp [hbuf, Memory.read_write hwf, ha], hcursor, stored_cr c hw, ho, hframe, htrace, fun hg => ?_⟩
    rw [stored_eq c hw hg]
    exact ⟨rfl, rfl, rfl, rfl⟩
  case full => rw [storeByte_full hc (hcl ▸ hl), raise_eq _ hw]

/-- Settles O34: both rows are the disarm with the success. -/
theorem receiveEndRowsSucceed : Obligations.ReceiveEndRowsSucceed := by
  intro s i hi hw
  have hexec : exec i s = .next (raise .okReceive s) := by rcases hi with rfl | rfl <;> rfl
  rw [hexec, raise_eq _ hw]

/-- Settles O35: the row is `nackThenRaise` after the write of the dummy byte, with a gap between the two. -/
theorem receiveWrongDirectionSendsTheDummy : Obligations.ReceiveWrongDirectionSendsTheDummy := by
  intro s hw
  obtain ⟨-, hcursor, hbuf, ho, htrace⟩ :=
    nackThenRaise_frame (.err .notExpectedTransactionDirection) (gap (ioWriteDr s.cfg.dummyByte s))
  have hbuf' := hbuf.trans (gap_buf _)
  have hframe := (RowNext.readInReceive (m := .receive) (e := .stSlaAck) (s := s) rfl rfl).frame
  refine ⟨_, rfl, ho, nackThenRaise_disarmed _ (by simpa using hw), by simpa using hcursor, fun a => congrArg (·.read a) hbuf',
    hbuf', hframe, by simpa using htrace, fun hg => ?_⟩
  rw [gap_of_gaps_nil (by simpa using hg), nackThenRaise_eq _ (by simpa using hw) (by simpa using hg)]
  exact ⟨rfl, rfl, rfl, rfl⟩

/-- Settles O37: the thirteen rows are `unknownState`. -/
theorem defaultRowsReportTheSnapshot : Obligations.DefaultRowsReportTheSnapshot := by
  intro s i v hi hw hv
  have hexec : exec i s = unknownState s := by
    rcases hi with rfl | rfl | rfl | rfl | ⟨c, rfl⟩ | rfl | rfl | rfl | rfl | rfl | rfl | rfl | ⟨c, rfl⟩ <;> rfl
  exact hexec.trans (unknownState_eq hw hv)

end Sys2Proof.Machine
end

section
/-! R161, R38: which accesses to the buffer and to `DR` a step of a call can make. -/

namespace Sys2Proof.Machine

/-- R161: what a receive call whose event is `e` can record: no read of the buffer, and a write of `DR` only in the row of
`ST_SLA_ACK`. -/
def Access.allowedInReceive (e : Option Event) (a : Access) : Prop :=
  a.isBufRead = false ∧ (e ≠ some .stSlaAck → a.isDrWrite = false)

/-- The other agents access neither. -/
theorem allowedInReceive_of_not_isOwn {e : Option Event} {a : Access} (h : a.isOwn = false) : a.allowedInReceive e := by
  cases a with
  | signal => exact ⟨rfl, fun _ => rfl⟩
  | busEvent => exact ⟨rfl, fun _ => rfl⟩
  | _ => simp [Access.isOwn] at h

/-- Accesses added to the record are allowed when the polling context's own ones among them are. -/
theorem allowedInReceive_of_ownTrace {e : Option Event} {s t : State} {new own : List Access}
    (ht : t.trace = new ++ s.trace) (hown : ownTrace t = own ++ ownTrace s) (h : ∀ a ∈ own, a.allowedInReceive e) :
    ∀ a ∈ new, a.allowedInReceive e := by
  have hfilter : new.filter Access.isOwn = own := by
    refine List.append_cancel_right (bs := ownTrace s) (hown ▸ ?_)
    simp only [ownTrace, ht, List.filter_append]
  intro a ha
  cases hisOwn : a.isOwn with
  | false => exact allowedInReceive_of_not_isOwn hisOwn
  | true => exact h a (hfilter ▸ List.mem_filter.2 ⟨ha, hisOwn⟩)

/-- R161: the own accesses of a row of RECEIVE. -/
theorem RowNext.ownAccesses_receive {e : Event} {s t : State} (h : RowNext .receive e s t) :
    ∃ own, ownTrace t = own ++ ownTrace s ∧ ∀ a ∈ own, a.allowedInReceive (some e) := by
  have control : ∀ v, (Access.crWrite v).allowedInReceive (some e) := fun v => ⟨rfl, fun _ => rfl⟩
  have raised : ∀ o, ∃ own, ownTrace (raise o s) = own ++ ownTrace s ∧ ∀ a ∈ own, a.allowedInReceive (some e) :=
    fun o => ⟨[_], ownTrace_raise o s, by simp [control]⟩
  cases h with
  | rearm => exact ⟨[_], ownTrace_commandArm s, by simp [control]⟩
  | arbitration =>
    obtain ⟨-, -, -, -, htrace⟩ := nackThenRaise_frame (.err .arbitrationLost) s
    exact ⟨[_, _], htrace, by simp [control]⟩
  | store c l =>
    obtain ⟨-, -, -, -, htrace⟩ := stored_frame c s
    exact ⟨[_, _, _], htrace, by simp [Access.allowedInReceive, Access.isBufRead, Access.isDrWrite]⟩
  | overflow => exact raised _
  | ended => exact raised _
  | readInReceive _ he =>
    obtain ⟨-, -, -, -, htrace⟩ := nackThenRaise_frame (.err .notExpectedTransactionDirection)
      (gap (ioWriteDr s.cfg.dummyByte s))
    exact ⟨[_, _, .drWrite s.cfg.dummyByte], by simpa using htrace,
      by simp [he, Access.allowedInReceive, Access.isBufRead]⟩
  | unknown => exact raised _
  | writeInRespond hm => nomatch hm
  | load _ _ hm => nomatch hm
  | pad _ hm => nomatch hm
  | padAndEnd _ hm => nomatch hm
  | counted _ hm => nomatch hm

/-- R38: no row of RESPOND writes the buffer. -/
theorem RowNext.buf_respond {e : Event} {s t : State} (h : RowNext .respond e s t) : t.buf = s.buf := by
  cases h with
  | store _ _ hm => nomatch hm
  | load c l => obtain ⟨-, -, -, hbuf, -⟩ := loaded_frame c s; exact hbuf
  | _ => simp [nackThenRaise, padByteNack]

/-- What `ReceiveNeverReadsAndRespondNeverWritesTheBuffer` says of a step from `s` to `t`. -/
structure BufferAccess (s t : State) : Prop where
  receive : ∃ new, t.trace = new ++ s.trace ∧ (s.mode = some .receive → ∀ a ∈ new, a.allowedInReceive s.event)
  respond : s.mode = some .respond → t.buf = s.buf

/-- A step that leaves the buffer and records one access, which is neither to the buffer nor a write of `DR`. -/
theorem BufferAccess.of_access {s t : State} (a : Access) (ht : t.trace = a :: s.trace) (hbuf : t.buf = s.buf)
    (hread : a.isBufRead = false) (hwrite : a.isDrWrite = false) : BufferAccess s t :=
  ⟨⟨[a], ht, fun _ => by simp [Access.allowedInReceive, hread, hwrite]⟩, fun _ => hbuf⟩

/-- A step that leaves the buffer and the record. -/
theorem BufferAccess.of_trace_eq {s t : State} (ht : t.trace = s.trace) (hbuf : t.buf = s.buf) : BufferAccess s t :=
  ⟨⟨[], ht, by simp⟩, fun _ => hbuf⟩

theorem RowNext.bufferAccess {m : Mode} {e : Event} {s t : State} (h : RowNext m e s t) (hm : s.mode = some m)
    (he : s.event = some e) : BufferAccess s t := by
  obtain ⟨new, hnew, -⟩ := h.flagTraced.rises
  refine ⟨⟨new, hnew, fun hr => ?_⟩, fun hr => ?_⟩
  · cases hm.symm.trans hr
    obtain ⟨own, hown, hallowed⟩ := h.ownAccesses_receive
    exact he ▸ allowedInReceive_of_ownTrace hnew hown hallowed
  · cases hm.symm.trans hr
    exact h.buf_respond

theorem EngineNext.bufferAccess {s t : State} (h : EngineNext s t) : BufferAccess s t := by
  cases h with
  | idle _ ht => exact ht ▸ .of_trace_eq rfl rfl
  | wait _ ht => exact ht ▸ .of_access (.flagRead s.flag) rfl rfl rfl rfl
  | snapshot _ ht => exact ht ▸ .of_access (.srRead s.sr) rfl rfl rfl rfl
  | act m e u _ hm he hr ht => exact ht ▸ { hr.bufferAccess hm he with }
  | clear _ ht => exact ht ▸ .of_access .flagClear rfl rfl rfl rfl
  | done o l _ _ _ ht => exact ht ▸ .of_trace_eq rfl rfl

theorem envStep_bufferAccess (e : EnvMove) (s : State) : BufferAccess s (envStep e s) := by
  obtain ⟨new, hnew, hother, -⟩ := (envStep_record e s).trace
  exact ⟨⟨new, hnew, fun _ a ha => allowedInReceive_of_not_isOwn (hother a ha)⟩, fun _ => envStep_buf e s⟩

/-- The caller moves in IDLE only. -/
theorem CallerNext.idle {op : Instr} {s t : State} (h : CallerNext op s t) : s.phase = .idle := by
  cases h with
  | call _ _ _ hp => exact hp
  | configure _ _ hp => exact hp
  | arm _ hp => exact hp

theorem step_bufferAccess {s t : State} (h : step s = .next t) (hp : s.phase ≠ .idle) : BufferAccess s t := by
  cases step_cases h with
  | engine u gs rest hu hstep =>
    subst hu
    exact { (engineStep_cases hstep).bufferAccess with }
  | caller u op gs rest _ hu hstep =>
    subst hu
    exact absurd (callerStep_cases hstep).idle hp
  | env u e rest hu ht =>
    subst hu ht
    exact { envStep_bufferAccess e _ with }

/-- Settles O51: `BufferAccess` for each agent's move. -/
theorem receiveNeverReadsAndRespondNeverWritesTheBuffer : Obligations.ReceiveNeverReadsAndRespondNeverWritesTheBuffer := by
  intro s t h hp
  obtain ⟨⟨new, hnew, hallowed⟩, hrespond⟩ := step_bufferAccess h hp
  refine ⟨new, hnew, fun hm => ⟨fun a ha => ?_, fun he a ha => ?_⟩, hrespond⟩
  · exact (hallowed hm a ha).1
  · exact (hallowed hm a ha).2 he

end Sys2Proof.Machine
end

section
/-! R162: a whole receive call in the canonical run: one event from WAIT to the clear, the events that a call goes on after,
and the one that ends it. -/

namespace Sys2Proof.Machine

/-! ### One event of the canonical run -/

/-- A waiting call that the event `x` and its `signal()` have reached; the moves `agenda` are left. -/
def signalled (x : BusItem) (agenda : List Move) (s : State) : State :=
  { s with
    sr := (x.1 &&& ~~~s.cfg.prescalerMask) ||| (s.sr &&& s.cfg.prescalerMask)
    dr := x.2.getD s.dr
    cr := { s.cr with int := true }
    flag := true
    agenda := agenda
    trace := .signal :: .busEvent x.1 x.2 :: s.trace }

/-- The same call at the row of the event, after WAIT and SNAPSHOT. -/
def atRow (x : BusItem) (agenda : List Move) (s : State) : State :=
  { signalled x agenda s with
    snapshot := some (snapshotOf s.cfg x.1)
    event := some (decodeEvent s.cfg (snapshotOf s.cfg x.1))
    phase := .act
    gaps := []
    trace := .srRead (signalled x agenda s).sr :: .flagRead true :: (signalled x agenda s).trace }

/-- What the CLEAR step leaves of the state `u` that a row ended in; the moves `rest` are left. -/
def afterClear (rest : List Move) (u : State) : State :=
  { u with
    flag := false
    phase := if u.outcome = none then .wait else .done
    agenda := rest
    gaps := []
    trace := .flagClear :: u.trace }

/-- R65: the step of an enabled `BusEvent` under the level kind. -/
theorem step_busEvent_level {s : State} {v : Byte} {d : Option Byte} {rest : List Move} (hw : s.cfg.wf = true)
    (hk : s.cfg.irqKind = .level) (hen : busEnabled s = true) (hd : isBusEvent s.cfg v d = true)
    (ha : s.agenda = .env (.bus v d) :: rest) : step s = .next { s with
      sr := (v &&& ~~~s.cfg.prescalerMask) ||| (s.sr &&& s.cfg.prescalerMask)
      dr := d.getD s.dr
      cr := { s.cr with int := true }
      trace := .busEvent v d :: s.trace
      agenda := rest } :=
  (step_env hw ha).trans (congrArg Host.Outcome.next (busEvent_eq (s := { s with agenda := rest }) hk hen hd))

/-- R121: the step of a requested `signal()` under the level kind. -/
theorem step_signal_level {s : State} {rest : List Move} (hw : s.cfg.wf = true) (hk : s.cfg.irqKind = .level)
    (hirq : irq s = true) (ha : s.agenda = .env .signal :: rest) :
    step s = .next { s with flag := true, trace := .signal :: s.trace, agenda := rest } :=
  (step_env hw ha).trans (congrArg Host.Outcome.next (signalStep_eq (s := { s with agenda := rest }) hk hirq))

section
variable {m : Mode} {c l : Nat} {s : State} {x : BusItem} {rest : List Move}

/-- R65, R121: the event comes, and the request that it makes is served. -/
theorem Waiting.run_signalled (h : Waiting m c l s) (hx : isBusEvent s.cfg x.1 x.2 = true)
    (ha : s.agenda = itemMoves x ++ rest) : core.run 2 s = .next (signalled x (serviceMoves ++ rest) s) := by
  obtain ⟨hen, hintEn, hint⟩ := h.armed
  refine (run_next (step_busEvent_level h.cfgOk h.level ((busEnabled_iff s).2 ⟨hen, hint⟩) hx ha)).trans
    (run_next (step_signal_level h.cfgOk h.level ?_ rfl))
  simp [irq, h.level, h.unmasked, hintEn]

/-- R132, R133: the first four moves of an event. -/
theorem Waiting.run_atRow (h : Waiting m c l s) (hx : isBusEvent s.cfg x.1 x.2 = true)
    (ha : s.agenda = itemMoves x ++ rest) :
    core.run 4 s = .next (atRow x (.engine [] :: .engine [] :: rest) s) := by
  have hsnapshot : snapshotOf s.cfg (signalled x (serviceMoves ++ rest) s).sr = snapshotOf s.cfg x.1 :=
    snapshotOf_or_mask s.cfg x.1 s.sr
  have hread := run_engine_to_act (s := signalled x (serviceMoves ++ rest) s) h.cfgOk h.phase rfl rfl
  rw [show (signalled x (serviceMoves ++ rest) s).cfg = s.cfg from rfl, hsnapshot] at hread
  exact (run_add 2 2 (h.run_signalled hx ha)).trans hread

/-- R134, R135: the six moves of an event whose row completes. -/
theorem Waiting.run_item {u : State} (h : Waiting m c l s) (hx : isBusEvent s.cfg x.1 x.2 = true)
    (ha : s.agenda = itemMoves x ++ rest)
    (hrow : exec (rowInstr m (decodeEvent s.cfg (snapshotOf s.cfg x.1))) (atRow x (.engine [] :: rest) s) = .next u) :
    core.run 6 s = .next (afterClear rest u) := by
  have hframe := (row_cases hrow).frame
  have hact : engineStep (atRow x (.engine [] :: rest) s) = .next { u with phase := .clear } := by
    rw [engineStep_act (s := atRow x (.engine [] :: rest) s) rfl h.mode rfl, hrow, andThen]
  have hclear := (step_engine (s := { u with phase := .clear }) (hframe.cfg ▸ h.cfgOk) hframe.agenda).trans
    (engineStep_clear rfl)
  rw [run_add 4 2 (h.run_atRow hx ha)]
  have hstep := (step_engine (s := atRow x (.engine [] :: .engine [] :: rest) s) h.cfgOk rfl).trans hact
  exact (run_next hstep).trans (run_next hclear)

end

/-! ### The events of a receive call -/

/-- R151, R153, R155, R157: an item that a receive call goes on after is an address event, whose row re-arms, or a data
event with a byte, whose row stores it. -/
inductive ContinuingItem (p : Params) (x : BusItem) : Prop where
  | address : isBusEvent p x.1 x.2 = true → acceptedByte p x = none →
      (∀ s, exec (rowInstr .receive (decodeEvent p (snapshotOf p x.1))) s = .next (commandArm s)) → ContinuingItem p x
  | data (d : Byte) : isBusEvent p x.1 x.2 = true → x.2 = some d → acceptedByte p x = some d →
      (∀ s, exec (rowInstr .receive (decodeEvent p (snapshotOf p x.1))) s = storeByte s) → ContinuingItem p x

theorem continuingItem_of_receiveContinues {p : Params} {x : BusItem} (h : receiveContinues p x = true) :
    ContinuingItem p x := by
  have address (he : decodeEvent p (snapshotOf p x.1) = .srSlaAck ∨ decodeEvent p (snapshotOf p x.1) = .srGcallAck) :
      ContinuingItem p x := by
    rcases he with he | he <;>
      exact .address (by simp [isBusEvent, isDataStatus, he]) (by simp [acceptedByte, he]) fun s => by rw [he]; rfl
  have data (he : decodeEvent p (snapshotOf p x.1) = .srDataAck ∨ decodeEvent p (snapshotOf p x.1) = .srGcallDataAck)
      (hsome : x.2.isSome = true) : ContinuingItem p x := by
    obtain ⟨d, hd⟩ := Option.isSome_iff_exists.1 hsome
    rcases he with he | he <;>
      exact .data d (by simp [isBusEvent, hsome]) hd (by simp [acceptedByte, he, hd]) fun s => by rw [he]; rfl
  unfold receiveContinues at h
  split at h
  · next he => exact address (.inl he)
  · next he => exact address (.inr he)
  · next he => exact data (.inl he) h
  · next he => exact data (.inr he) h
  · simp at h

/-- R156, R158: the row of an item that ends a receive call is the disarm with the success. -/
theorem endingItem_of_receiveEnds {p : Params} {x : BusItem} (h : receiveEnds p x = true) :
    isBusEvent p x.1 x.2 = true ∧
      ∀ s, exec (rowInstr .receive (decodeEvent p (snapshotOf p x.1))) s = .next (raise .okReceive s) := by
  unfold receiveEnds at h
  split at h
  · next he => exact ⟨by simp [isBusEvent, isDataStatus, he], fun s => by rw [he]; rfl⟩
  · next he => exact ⟨by simp [isBusEvent, isDataStatus, he], fun s => by rw [he]; rfl⟩
  · simp at h

/-! ### The bytes a call stores -/

/-- `m'` holds the bytes `bs` from index `c` on, and elsewhere what `m` holds. -/
structure StoredFrom (c : Nat) (bs : List Byte) (m m' : Memory) : Prop where
  inside : ∀ k, (h : k < bs.length) → m'.read (c + k) = bs[k]
  outside : ∀ a, a < c ∨ c + bs.length ≤ a → m'.read a = m.read a

theorem StoredFrom.nil (c : Nat) (m : Memory) : StoredFrom c [] m m :=
  ⟨fun _ h => (nomatch h), fun _ _ => rfl⟩

theorem StoredFrom.write {m : Memory} (hm : m.wf = true) (c : Nat) (v : Byte) : StoredFrom c [v] m (m.write c v) where
  inside k h := by
    obtain rfl : k = 0 := by simpa using h
    simp [Memory.read_write hm]
  outside a h := by
    have hne : a ≠ c := by simp only [List.length_singleton] at h; omega
    simp [Memory.read_write hm, hne]

/-- Bytes stored after bytes stored. -/
theorem StoredFrom.append {c : Nat} {bs bs' : List Byte} {m m' m'' : Memory} (h : StoredFrom c bs m m')
    (h' : StoredFrom (c + bs.length) bs' m' m'') : StoredFrom c (bs ++ bs') m m'' where
  inside k hk := by
    rw [List.length_append] at hk
    by_cases hlt : k < bs.length
    · rw [h'.outside _ (by omega), h.inside k hlt, List.getElem_append_left hlt]
    · have hread := h'.inside (k - bs.length) (by omega)
      rw [show c + bs.length + (k - bs.length) = c + k by omega] at hread
      rw [hread, List.getElem_append_right (by omega)]
  outside a ha := by
    rw [List.length_append] at ha
    rw [h'.outside a (by omega), h.outside a (by omega)]

/-! ### The events before the last -/

/-- The receive call of `s`, with `c` bytes stored, waits in `t` again after it has accepted the bytes `bs`. -/
structure Accepted (c l : Nat) (bs : List Byte) (s t : State) : Prop where
  waiting : Waiting .receive (c + bs.length) l t
  cfg : t.cfg = s.cfg
  stored : StoredFrom c bs s.buf t.buf

theorem Accepted.append {c l : Nat} {bs bs' : List Byte} {s t u : State} (h : Accepted c l bs s t)
    (h' : Accepted (c + bs.length) l bs' t u) : Accepted c l (bs ++ bs') s u where
  waiting := by simpa only [List.length_append, Nat.add_assoc] using h'.waiting
  cfg := h'.cfg.trans h.cfg
  stored := h.stored.append h'.stored

section
variable {c l : Nat} {s : State} {x : BusItem} {rest : List Move}

/-- R151, R153, R155, R157: one event that the call goes on after. -/
theorem Waiting.run_continuing (h : Waiting .receive c l s) (hx : ContinuingItem s.cfg x)
    (hroom : c + ([x].filterMap (acceptedByte s.cfg)).length ≤ l) (ha : s.agenda = itemMoves x ++ rest) :
    ∃ t, core.run 6 s = .next t ∧ t.agenda = rest ∧ Accepted c l ([x].filterMap (acceptedByte s.cfg)) s t := by
  have hw : (atRow x (.engine [] :: rest) s).cfg.wf = true := h.cfgOk
  cases hx with
  | address hevent hbyte hexec =>
    refine ⟨_, h.run_item hevent ha (hexec _), rfl, ?_⟩
    rw [commandArm_eq hw]
    simp only [List.filterMap_cons, hbyte, List.filterMap_nil]
    exact {
      waiting := { h with phase := if_pos h.outcome, flag := rfl, armed := ⟨rfl, rfl, rfl⟩ }
      cfg := rfl
      stored := .nil c s.buf }
  | data d hevent hd hbyte hexec =>
    simp only [List.filterMap_cons, hbyte, List.filterMap_nil] at hroom ⊢
    have hrow := (hexec (atRow x (.engine [] :: rest) s)).trans (storeByte_room h.cursor h.len hroom)
    rw [stored_eq c hw rfl] at hrow
    have hdr : (atRow x (.engine [] :: rest) s).dr = d := congrArg (·.getD s.dr) hd
    rw [hdr] at hrow
    exact ⟨_, h.run_item hevent ha hrow, rfl, {
      waiting := { h with
        phase := if_pos h.outcome, flag := rfl, armed := ⟨rfl, rfl, rfl⟩, cursor := rfl, bufWf := Memory.write_wf h.bufWf }
      cfg := rfl
      stored := .write h.bufWf c d }⟩

/-- R162: any number of events that the call goes on after. -/
theorem Waiting.run_continuing_all {xs : List BusItem} (h : Waiting .receive c l s)
    (hxs : ∀ x ∈ xs, receiveContinues s.cfg x = true) (hroom : c + (xs.filterMap (acceptedByte s.cfg)).length ≤ l)
    (ha : s.agenda = xs.flatMap itemMoves ++ rest) :
    ∃ t, core.run (6 * xs.length) s = .next t ∧ t.agenda = rest ∧
      Accepted c l (xs.filterMap (acceptedByte s.cfg)) s t := by
  induction xs generalizing c s with
  | nil => exact ⟨s, rfl, ha, h, rfl, .nil c s.buf⟩
  | cons x xs ih =>
    have hsplit : (x :: xs).filterMap (acceptedByte s.cfg) =
        [x].filterMap (acceptedByte s.cfg) ++ xs.filterMap (acceptedByte s.cfg) := List.filterMap_append (l := [x])
    rw [hsplit] at hroom ⊢
    rw [List.length_append] at hroom
    obtain ⟨t, ht, hta, hacc⟩ := h.run_continuing (rest := xs.flatMap itemMoves ++ rest)
      (continuingItem_of_receiveContinues (hxs x (by simp))) (by omega) (by simpa using ha)
    obtain ⟨u, hu, hua, hacc'⟩ := ih hacc.waiting (by rw [hacc.cfg]; exact fun y hy => hxs y (by simp [hy]))
      (by rw [hacc.cfg]; omega) hta
    rw [hacc.cfg] at hacc'
    refine ⟨u, ?_, hua, hacc.append hacc'⟩
    rw [List.length_cons, Nat.mul_succ, Nat.add_comm, run_add 6 _ ht, hu]

/-! ### The last event -/

/-- R156, R158: the event that ends the call. -/
theorem Waiting.run_ending (h : Waiting .receive c l s) (hx : receiveEnds s.cfg x = true)
    (ha : s.agenda = itemMoves x ++ rest) :
    ∃ t, core.run 6 s = .next t ∧ t.phase = .done ∧ t.outcome = some .okReceive ∧ t.agenda = rest ∧
      isDisarmed t.cr = true ∧ t.flag = false ∧ t.cursor = some c ∧ t.buf = s.buf := by
  obtain ⟨hevent, hexec⟩ := endingItem_of_receiveEnds hx
  have hw : (atRow x (.engine [] :: rest) s).cfg.wf = true := h.cfgOk
  refine ⟨_, h.run_item hevent ha (hexec _), rfl, rfl, rfl, ?_, rfl, h.cursor, rfl⟩
  rw [raise_eq _ hw]
  exact isDisarmed_disarmed _

end

/-- Settles O56: the events before the last leave the call waiting with their bytes stored (`run_continuing_all`, by
induction on them), and the last ends it (`run_ending`). -/
theorem receiveCallStoresTheBytesInOrder : Obligations.ReceiveCallStoresTheBytesInOrder := by
  intro s c l xs last rest h hxs hlast hroom ha
  obtain ⟨t, ht, hta, hacc⟩ := h.run_continuing_all (rest := itemMoves last ++ rest) hxs hroom (by simpa using ha)
  obtain ⟨u, hu, hphase, ho, hagenda, hdisarmed, hflag, hcursor, hbuf⟩ :=
    hacc.waiting.run_ending (by rwa [hacc.cfg]) hta
  refine ⟨u, (run_add (6 * xs.length) 6 ht).trans hu, hphase, ho, hagenda, hdisarmed, hflag, hcursor, ?_, ?_⟩
  · rw [hbuf]; exact hacc.stored.inside
  · rw [hbuf]; exact hacc.stored.outside

end Sys2Proof.Machine
end

section
/-! R170 to R173, R175: what the rows of RESPOND leave of the whole state, but for those that share the actions of RECEIVE. -/

namespace Sys2Proof.Machine

/-! ### The data register across a gap -/

/-- R57, R65: while nobody moves or an event is pending, a gap leaves `DR` alone, and so does the gap after it. -/
theorem gap_holds_dr {s : State} (h : s.gaps = [] ∨ s.cr.int = true) :
    ((gap s).gaps = [] ∨ (gap s).cr.int = true) ∧ (gap s).dr = s.dr := by
  rcases h with hg | hint
  · rw [gap_of_gaps_nil hg]; exact ⟨.inl hg, rfl⟩
  · obtain ⟨hint', hdr⟩ := gap_pending hint
    exact ⟨.inr hint', hdr⟩

theorem loaded_dr (c : Nat) {s : State} (h : s.gaps = [] ∨ s.cr.int = true) : (loaded c s).dr = s.buf.read c := by
  obtain ⟨hfirst, -⟩ := gap_holds_dr (s := s.record (.bufRead c (s.buf.read c))) h
  rw [loaded, commandArm_dr, (gap_holds_dr ?held).2]
  case held => exact hfirst
  rfl

theorem padByteNack_dr {s : State} (h : s.gaps = [] ∨ s.cr.int = true) : (padByteNack s).dr = padByte := by
  rw [padByteNack, commandNack_dr, (gap_holds_dr (s := ioWriteDr padByte s) h).2, ioWriteDr_dr]

/-! ### The shared actions with nobody moving in between -/

/-- R170, R171: the whole next state of the loaded byte with nobody moving between the accesses. -/
theorem loaded_eq (c : Nat) {s : State} (hw : s.cfg.wf = true) (hg : s.gaps = []) :
    loaded c s = { s with
      cursor := some (c + 1)
      cr := rearmed
      dr := s.buf.read c
      trace := .crWrite (cwArmWord s.cfg) :: .drWrite (s.buf.read c) :: .bufRead c (s.buf.read c) :: s.trace } := by
  have hread : gap (s.record (.bufRead c (s.buf.read c))) = s.record (.bufRead c (s.buf.read c)) := gap_of_gaps_nil hg
  rw [loaded, hread, gap_of_gaps_nil (by simpa using hg), commandArm_eq (by simpa using hw)]
  rfl

/-- R170, R171: the whole next state of the pad with nobody moving between the two writes. -/
theorem padByteNack_eq {s : State} (hw : s.cfg.wf = true) (hg : s.gaps = []) :
    padByteNack s = { s with
      cr := nacked
      dr := padByte
      trace := .crWrite (cwNackWord s.cfg) :: .drWrite padByte :: s.trace } := by
  rw [padByteNack, gap_of_gaps_nil (by simpa using hg), commandNack_eq (by simpa using hw)]
  rfl

/-! ### The two paths of the loading rows -/

section
variable {s : State} {c l : Nat}

/-- R170, R171: with a byte left both rows load it. -/
theorem exec_loading_room {i : Instr} (hi : i = .txStSlaAck ∨ i = .txStDataAck) (hc : s.cursor = some c)
    (hl : s.len = some l) (hlt : c < l) : exec i s = .next (loaded c s) := by
  have hne : c ≠ l := Nat.ne_of_lt hlt
  rcases hi with rfl | rfl <;>
    simp only [exec, execTxStSlaAck, execTxStDataAck, readCursor_some hc, readLen_some hl, if_neg hne, loadByte_next hl hlt]

/-- R170: with none left the address row pads. -/
theorem exec_txStSlaAck_full (hc : s.cursor = some c) (hl : s.len = some c) :
    exec .txStSlaAck s = .next (padByteNack s) := by
  rw [exec, execTxStSlaAck, readCursor_some hc, readLen_some hl, if_pos rfl]

/-- R171: with none left the data row pads and ends the call. -/
theorem exec_txStDataAck_full (hc : s.cursor = some c) (hl : s.len = some c) :
    exec .txStDataAck s = .next (raise (.okRespond c) (gap (padByteNack s))) := by
  rw [exec, execTxStDataAck, readCursor_some hc, readLen_some hl, if_pos rfl]

end

/-- R170, R171: all that the two rows say of the path with a byte left. -/
theorem loaded_spec (c : Nat) {s : State} (hw : s.cfg.wf = true) :
    (loaded c s).cursor = some (c + 1) ∧ (loaded c s).cr = rearmed ∧ (loaded c s).outcome = s.outcome ∧
      SameBytes s (loaded c s) ∧ (loaded c s).buf = s.buf ∧ RowFrame s (loaded c s) ∧
      ownTrace (loaded c s) =
        .crWrite (cwArmWord s.cfg) :: .drWrite (s.buf.read c) :: .bufRead c (s.buf.read c) :: ownTrace s ∧
      (s.gaps = [] ∨ s.cr.int = true → (loaded c s).dr = s.buf.read c) ∧
      (s.gaps = [] → (loaded c s).sr = s.sr ∧ (loaded c s).flag = s.flag ∧ (loaded c s).edge = s.edge) := by
  obtain ⟨hframe, hcursor, ho, hbuf, htrace⟩ := loaded_frame c s
  refine ⟨hcursor, loaded_cr c hw, ho, fun a => congrArg (·.read a) hbuf, hbuf, hframe, htrace, loaded_dr c, fun hg => ?_⟩
  rw [loaded_eq c hw hg]
  exact ⟨rfl, rfl, rfl⟩

/-! ### The rows -/

/-- Settles O38: the two paths of the row are `loaded` and `padByteNack`. -/
theorem respondAddressRowLoadsOrPads : Obligations.RespondAddressRowLoadsOrPads := by
  intro s c l hw hc hl
  refine ⟨fun hlt => ⟨_, exec_loading_room (.inl rfl) hc hl hlt, loaded_spec c hw⟩, fun hcl => ?_⟩
  obtain ⟨hframe, hcursor, ho, hbuf, htrace⟩ := padByteNack_frame s
  refine ⟨_, exec_txStSlaAck_full hc (hcl ▸ hl), hcursor.trans hc, padByteNack_cr hw, ho,
    fun a => congrArg (·.read a) hbuf, hbuf, hframe, htrace, padByteNack_dr, fun hg => ?_⟩
  rw [padByteNack_eq hw hg]
  exact ⟨rfl, rfl, rfl⟩

/-- Settles O39: the two paths of the row are `loaded`, and `padByteNack` with the disarm and the success after it. -/
theorem respondDataRowLoadsOrSucceeds : Obligations.RespondDataRowLoadsOrSucceeds := by
  intro s c l hw hc hl
  refine ⟨fun hlt => ⟨_, exec_loading_room (.inr rfl) hc hl hlt, loaded_spec c hw⟩, fun hcl => ?_⟩
  subst hcl
  obtain ⟨hframe, hcursor, -, hbuf, htrace⟩ := padByteNack_frame s
  have hbuf' : (raise (.okRespond c) (gap (padByteNack s))).buf = s.buf := by simpa using hbuf
  have hw' : (gap (padByteNack s)).cfg.wf = true := by simpa [hframe.cfg] using hw
  refine ⟨_, exec_txStDataAck_full hc hl, rfl, by simpa [hcursor] using hc, ?_, fun a => congrArg (·.read a) hbuf', hbuf',
    (RowNext.padAndEnd (e := .stDataAck) c rfl hc hl).frame, by simp [htrace, hframe.cfg, padByte], fun hg => ?_⟩
  · rw [raise_eq _ hw']
    exact isDisarmed_disarmed _
  · have hg' : (padByteNack s).gaps = [] := by rw [padByteNack_eq hw hg]; exact hg
    rw [gap_of_gaps_nil hg', padByteNack_eq hw hg, raise_eq _ (by simpa using hw)]
    exact ⟨rfl, rfl, rfl, rfl, rfl⟩

/-- Settles O36: the row is the disarm with the error. -/
theorem respondWrongDirectionDisarmsOnly : Obligations.RespondWrongDirectionDisarmsOnly :=
  fun _ hw => congrArg Host.Outcome.next (raise_eq _ hw)

/-- Settles O40: both rows are the disarm with the cursor as the count. -/
theorem respondEndRowsReturnTheCount : Obligations.RespondEndRowsReturnTheCount := by
  intro s i c hi hw hc
  have hexec : exec i s = succeedWithCount s := by rcases hi with rfl | rfl <;> rfl
  rw [hexec, succeedWithCount_next hc, raise_eq _ hw]

end Sys2Proof.Machine
end

section
/-! R178: a whole respond call in the canonical run: the events that load a byte, and the one that ends the call. -/

namespace Sys2Proof.Machine

/-! ### The events of a respond call -/

/-- R170, R171: the row of an item that loads a buffer byte does so while there is one. -/
theorem loadingItem_of_respondLoads {p : Params} {x : BusItem} (h : respondLoads p x = true) :
    isBusEvent p x.1 x.2 = true ∧ ∀ {s : State} {c l : Nat}, s.cursor = some c → s.len = some l → c < l →
      exec (rowInstr .respond (decodeEvent p (snapshotOf p x.1))) s = .next (loaded c s) := by
  unfold respondLoads at h
  split at h
  · next he => exact ⟨by simp [isBusEvent, isDataStatus, he], by rw [he]; exact exec_loading_room (.inl rfl)⟩
  · next he => exact ⟨by simp [isBusEvent, isDataStatus, he], by rw [he]; exact exec_loading_room (.inr rfl)⟩
  · simp at h

/-- R172, R173: the row of an item that ends a respond call is the disarm with the count. -/
theorem endingItem_of_respondEnds {p : Params} {x : BusItem} (h : respondEnds p x = true) :
    isBusEvent p x.1 x.2 = true ∧ ∀ {s : State} {c : Nat}, s.cursor = some c →
      exec (rowInstr .respond (decodeEvent p (snapshotOf p x.1))) s = .next (raise (.okRespond c) s) := by
  unfold respondEnds at h
  split at h
  · next he => exact ⟨by simp [isBusEvent, isDataStatus, he], by rw [he]; exact succeedWithCount_next⟩
  · next he => exact ⟨by simp [isBusEvent, isDataStatus, he], by rw [he]; exact succeedWithCount_next⟩
  · simp at h

/-! ### The events before the last -/

/-- The `n` bytes of the buffer from index `c` on. -/
def bytesFrom (m : Memory) (c n : Nat) : List Byte := (List.range n).map fun k => m.read (c + k)

theorem bytesFrom_succ (m : Memory) (c n : Nat) : bytesFrom m c (n + 1) = m.read c :: bytesFrom m (c + 1) n := by
  simp [bytesFrom, List.range_succ_eq_map, Function.comp_def, Nat.add_assoc, Nat.add_comm 1]

/-- The respond call of `s`, with `c` bytes offered, waits in `t` again after it has offered the next `n`. -/
structure Offered (c l n : Nat) (s t : State) : Prop where
  waiting : Waiting .respond (c + n) l t
  cfg : t.cfg = s.cfg
  buf : t.buf = s.buf
  loads : loadedBytes t = (bytesFrom s.buf c n).reverse ++ loadedBytes s

/-- Bytes offered after one byte offered. -/
theorem Offered.cons {c l n : Nat} {s t u : State} (h : Offered c l 1 s t) (h' : Offered (c + 1) l n t u) :
    Offered c l (n + 1) s u where
  waiting := by simpa only [Nat.add_assoc, Nat.add_comm 1] using h'.waiting
  cfg := h'.cfg.trans h.cfg
  buf := h'.buf.trans h.buf
  loads := by
    rw [h'.loads, h.loads, h.buf, bytesFrom_succ s.buf c n, List.reverse_cons, List.append_assoc]
    rfl

section
variable {c l : Nat} {s : State} {x : BusItem} {rest : List Move}

/-- R170, R171: one event that loads a byte. -/
theorem Waiting.run_loading (h : Waiting .respond c l s) (hx : respondLoads s.cfg x = true) (hlt : c < l)
    (ha : s.agenda = itemMoves x ++ rest) :
    ∃ t, core.run 6 s = .next t ∧ t.agenda = rest ∧ Offered c l 1 s t := by
  obtain ⟨hevent, hexec⟩ := loadingItem_of_respondLoads hx
  have hw : (atRow x (.engine [] :: rest) s).cfg.wf = true := h.cfgOk
  have hrow := hexec (s := atRow x (.engine [] :: rest) s) h.cursor h.len hlt
  rw [loaded_eq c hw rfl] at hrow
  exact ⟨_, h.run_item hevent ha hrow, rfl, {
    waiting := { h with phase := if_pos h.outcome, flag := rfl, armed := ⟨rfl, rfl, rfl⟩, cursor := rfl }
    cfg := rfl
    buf := rfl
    loads := rfl }⟩

/-- R178: any number of events that load a byte. -/
theorem Waiting.run_loading_all {xs : List BusItem} (h : Waiting .respond c l s)
    (hxs : ∀ x ∈ xs, respondLoads s.cfg x = true) (hroom : c + xs.length ≤ l)
    (ha : s.agenda = xs.flatMap itemMoves ++ rest) :
    ∃ t, core.run (6 * xs.length) s = .next t ∧ t.agenda = rest ∧ Offered c l xs.length s t := by
  induction xs generalizing c s with
  | nil => exact ⟨s, rfl, ha, h, rfl, rfl, rfl⟩
  | cons x xs ih =>
    rw [List.length_cons] at hroom ⊢
    obtain ⟨t, ht, hta, hoff⟩ := h.run_loading (rest := xs.flatMap itemMoves ++ rest)
      (hxs x (by simp)) (by omega) (by simpa using ha)
    obtain ⟨u, hu, hua, hoff'⟩ := ih hoff.waiting (by rw [hoff.cfg]; exact fun y hy => hxs y (by simp [hy]))
      (by omega) hta
    refine ⟨u, ?_, hua, hoff.cons hoff'⟩
    rw [Nat.mul_succ, Nat.add_comm, run_add 6 _ ht, hu]

/-! ### The last event -/

/-- R172, R173: the event that ends the call; it loads nothing. -/
theorem Waiting.run_counted (h : Waiting .respond c l s) (hx : respondEnds s.cfg x = true)
    (ha : s.agenda = itemMoves x ++ rest) :
    ∃ t, core.run 6 s = .next t ∧ t.phase = .done ∧ t.outcome = some (.okRespond c) ∧ t.agenda = rest ∧
      isDisarmed t.cr = true ∧ t.flag = false ∧ t.buf = s.buf ∧ loadedBytes t = loadedBytes s := by
  obtain ⟨hevent, hexec⟩ := endingItem_of_respondEnds hx
  have hw : (atRow x (.engine [] :: rest) s).cfg.wf = true := h.cfgOk
  refine ⟨_, h.run_item hevent ha (hexec h.cursor), rfl, rfl, rfl, ?_, rfl, rfl, rfl⟩
  rw [raise_eq _ hw]
  exact isDisarmed_disarmed _

end

/-- Settles O57: the events before the last leave the call waiting with their bytes offered (`run_loading_all`, by
induction on them), and the last ends it with the cursor as the count (`run_counted`). -/
theorem respondCallOffersTheBytesInOrder : Obligations.RespondCallOffersTheBytesInOrder := by
  intro s c l xs last rest h hxs hlast hroom ha
  obtain ⟨t, ht, hta, hoff⟩ := h.run_loading_all (rest := itemMoves last ++ rest) hxs hroom (by simpa using ha)
  obtain ⟨u, hu, hphase, ho, hagenda, hdisarmed, hflag, hbuf, hloads⟩ :=
    hoff.waiting.run_counted (by rwa [hoff.cfg]) hta
  exact ⟨u, (run_add (6 * xs.length) 6 ht).trans hu, hphase, ho, hagenda, hdisarmed, hflag, hbuf.trans hoff.buf,
    hloads.trans hoff.loads⟩

end Sys2Proof.Machine
end

section
/-! R205, R199: which instruction a step of the caller, and one of the interrupt context, is. -/

namespace Sys2Proof.Machine

/-- Settles O29: the step is the scheduled move; the caller's is `exec` of each of its four operations. -/
theorem callerAndInterruptStepsAreExec : Obligations.CallerAndInterruptStepsAreExec :=
  fun _ _ hw => ⟨step_move hw, fun _ _ ha hi => (step_move hw ha).trans (callerStep_of_isCallerOperation hi _)⟩

end Sys2Proof.Machine
end

section
/-! R200: the disarmed controller from one step to the next. The other agents have no step on it, the engine outside ACT
writes no control register, and of the caller's operations only `arm()` ends the state. -/

namespace Sys2Proof.Machine

/-! ### The other agents -/

/-- R106, R127: while the controller is disarmed no `signal()` is made, so the flag stays as it is. -/
theorem envStep_flag_of_isDisarmed {s : State} (e : EnvMove) (h : isDisarmed s.cr = true) :
    (envStep e s).flag = s.flag := by
  obtain ⟨hen, hint⟩ := enables_of_isDisarmed h
  obtain ⟨-, hflag, -, -⟩ := envStep_disarmed e hen hint
  exact hflag

theorem envSteps_flag_of_isDisarmed {s : State} (es : List EnvMove) (h : isDisarmed s.cr = true) :
    (envSteps es s).flag = s.flag := by
  induction es generalizing s with
  | nil => rfl
  | cons e es ih => exact (ih (by simpa using h)).trans (envStep_flag_of_isDisarmed e h)

theorem gap_flag_of_isDisarmed {s : State} (h : isDisarmed s.cr = true) : (gap s).flag = s.flag := by
  unfold gap
  split
  · rfl
  · exact envSteps_flag_of_isDisarmed _ (s := { s with gaps := _ }) h

/-! ### The engine and the caller -/

/-- R143: outside ACT no step of the engine writes `CR`, and none sets the flag (R25). -/
theorem EngineNext.cr_and_flag {s t : State} (h : EngineNext s t) (hp : s.phase ≠ .act) :
    t.cr = s.cr ∧ (s.flag = false → t.flag = false) := by
  cases h with
  | idle _ ht => exact ht ▸ ⟨rfl, id⟩
  | wait _ ht => exact ht ▸ ⟨rfl, id⟩
  | snapshot _ ht => exact ht ▸ ⟨rfl, id⟩
  | act _ _ _ hact => exact absurd hact hp
  | clear _ ht => exact ht ▸ ⟨rfl, fun _ => rfl⟩
  | done _ _ _ _ _ ht => exact ht ▸ ⟨rfl, id⟩

/-- R200: over a disarmed controller no operation of the caller changes the flag, and only `arm()` sets an enable. -/
theorem CallerNext.disarmed {op : Instr} {s t : State} (h : CallerNext op s t) (hw : s.cfg.wf = true)
    (hd : isDisarmed s.cr = true) : t.flag = s.flag ∧ (isDisarmed t.cr = true ∨ op = .arm) := by
  cases h with
  | call _ _ _ _ _ ht => exact ht ▸ ⟨rfl, .inl hd⟩
  | configure g _ _ ht =>
    have hflag := gap_flag_of_isDisarmed (s := ioWriteAr (addressWord s.cfg s.addr7 g) s) hd
    exact ht ▸ ⟨hflag, .inl (isDisarmed_commandDisarm (by simpa using hw))⟩
  | arm hop _ ht => exact ht ▸ ⟨rfl, .inr hop⟩

/-- Settles O60: by the agent that moves; the caller's `arm()` is the one exception, and is made in IDLE. -/
theorem onlyArmEndsTheDisarmedState : Obligations.OnlyArmEndsTheDisarmedState := by
  intro s t h hp hd
  have hw := step_cfg h
  cases step_cases h with
  | engine u gs rest hu hstep =>
    subst hu
    obtain ⟨hcr, hflag⟩ := (engineStep_cases hstep).cr_and_flag hp
    exact ⟨hflag, .inl (hcr ▸ hd)⟩
  | caller u op gs rest ha hu hstep =>
    subst hu
    have hcaller := callerStep_cases hstep
    obtain ⟨hflag, hcr⟩ := hcaller.disarmed hw hd
    exact ⟨hflag.trans, hcr.imp_right fun (hop : op = .arm) => ⟨hcaller.idle, gs, rest, hop ▸ ha⟩⟩
  | env u e rest hu ht =>
    subst hu ht
    exact ⟨(envStep_flag_of_isDisarmed (s := { s with agenda := rest }) e hd).trans, .inl (by simpa using hd)⟩

end Sys2Proof.Machine
end

section
/-! R150, R177, R196: every row of a call in progress completes, with the outcome of the table and a control write as its
last access. -/

namespace Sys2Proof.Machine

/-! ### The last access of a row -/

/-- R143, R139: the control write that a row from `s` to `t` ends with, and the control state after it. -/
inductive EndsWithControl (s t : State) : Prop where
  | arm : t.outcome = s.outcome → t.trace.head? = some (.crWrite (cwArmWord s.cfg)) → t.cr = rearmed →
      EndsWithControl s t
  | nack : t.outcome = s.outcome → t.trace.head? = some (.crWrite (cwNackWord s.cfg)) → t.cr = nacked →
      EndsWithControl s t
  | disarm : t.outcome ≠ none → t.trace.head? = some (.crWrite (cwDisarmedWord s.cfg)) → isDisarmed t.cr = true →
      EndsWithControl s t

/-- R203: whatever a terminal row does first, it ends with the disarm. -/
theorem endsWithControl_raise (o : CallOutcome) {s u : State} (hcfg : u.cfg = s.cfg) (hw : s.cfg.wf = true) :
    EndsWithControl s (raise o u) :=
  .disarm (by simp) (by simp [hcfg]) (isDisarmed_commandDisarm (hcfg ▸ hw))

theorem RowNext.endsWithControl {m : Mode} {e : Event} {s t : State} (h : RowNext m e s t) (hw : s.cfg.wf = true) :
    EndsWithControl s t := by
  cases h with
  | rearm => exact .arm rfl rfl (after_arm hw _)
  | store c l =>
    obtain ⟨-, -, ho, -, -⟩ := stored_frame c s
    exact .arm ho (by simp [stored]) (stored_cr c hw)
  | load c l =>
    obtain ⟨-, -, ho, -, -⟩ := loaded_frame c s
    exact .arm ho (by simp [loaded]) (loaded_cr c hw)
  | pad c =>
    obtain ⟨-, -, ho, -, -⟩ := padByteNack_frame s
    exact .nack ho (by simp [padByteNack]) (padByteNack_cr hw)
  | arbitration => exact endsWithControl_raise _ (by simp) hw
  | readInReceive => exact endsWithControl_raise _ (by simp) hw
  | padAndEnd c => exact endsWithControl_raise _ (by simp [padByteNack]) hw
  | overflow | ended | writeInRespond | unknown | counted => exact endsWithControl_raise _ rfl hw

/-! ### The outcome of a row -/

section
variable {s : State} {c l : Nat}

/-- R155, R157: the data rows of RECEIVE end the call on a full buffer only. -/
theorem storeByte_outcome (hc : s.cursor = some c) (hl : s.len = some l) (hcl : c ≤ l) (ho : s.outcome = none) :
    ∃ t, storeByte s = .next t ∧ t.outcome = if c = l then some (.err .bufferOverflow) else none := by
  split
  · next heq => exact ⟨_, storeByte_full hc (heq ▸ hl), rfl⟩
  · next hne =>
    obtain ⟨-, -, hsame, -, -⟩ := stored_frame c s
    exact ⟨_, storeByte_room hc hl (Nat.lt_of_le_of_ne hcl hne), hsame.trans ho⟩

/-- R170: the address row of RESPOND goes on, with a byte left and without. -/
theorem exec_txStSlaAck_outcome (hc : s.cursor = some c) (hl : s.len = some l) (hcl : c ≤ l) (ho : s.outcome = none) :
    ∃ t, exec .txStSlaAck s = .next t ∧ t.outcome = none := by
  rcases Nat.lt_or_eq_of_le hcl with hlt | rfl
  · obtain ⟨-, -, hsame, -, -⟩ := loaded_frame c s
    exact ⟨_, exec_loading_room (.inl rfl) hc hl hlt, hsame.trans ho⟩
  · obtain ⟨-, -, hsame, -, -⟩ := padByteNack_frame s
    exact ⟨_, exec_txStSlaAck_full hc hl, hsame.trans ho⟩

/-- R171: the data row of RESPOND succeeds with the whole buffer offered, and goes on before that. -/
theorem exec_txStDataAck_outcome (hc : s.cursor = some c) (hl : s.len = some l) (hcl : c ≤ l) (ho : s.outcome = none) :
    ∃ t, exec .txStDataAck s = .next t ∧ t.outcome = if c = l then some (.okRespond l) else none := by
  split
  · next heq =>
    subst heq
    exact ⟨_, exec_txStDataAck_full hc hl, rfl⟩
  · next hne =>
    obtain ⟨-, -, hsame, -, -⟩ := loaded_frame c s
    exact ⟨_, exec_loading_room (.inr rfl) hc hl (Nat.lt_of_le_of_ne hcl hne), hsame.trans ho⟩

/-- R196: with no outcome yet, every row completes and leaves the outcome of the table. -/
theorem row_outcome (m : Mode) (e : Event) {v : Byte} (hc : s.cursor = some c) (hl : s.len = some l) (hcl : c ≤ l)
    (hv : s.snapshot = some v) (ho : s.outcome = none) :
    ∃ t, exec (rowInstr m e) s = .next t ∧ t.outcome = outcomeTable m e c l v := by
  have hunknown : ∃ t, unknownState s = .next t ∧ t.outcome = some (.err (.unknownState v)) :=
    ⟨_, unknownState_next hv, rfl⟩
  cases m with
  | receive =>
    cases e with
    | srSlaAck | srGcallAck => exact ⟨_, rfl, ho⟩
    | srArbSlaAck | srArbGcallAck | srDataFinal | srStop | stSlaAck => exact ⟨_, rfl, rfl⟩
    | srDataAck | srGcallDataAck => exact storeByte_outcome hc hl hcl ho
    | stArbSlaAck | stDataAck | stDataNack | stLastData | unrecognized => exact hunknown
  | respond =>
    cases e with
    | srSlaAck | stArbSlaAck => exact ⟨_, rfl, rfl⟩
    | stSlaAck => exact exec_txStSlaAck_outcome hc hl hcl ho
    | stDataAck => exact exec_txStDataAck_outcome hc hl hcl ho
    | stDataNack | stLastData => exact ⟨_, succeedWithCount_next hc, rfl⟩
    | srArbSlaAck | srGcallAck | srArbGcallAck | srDataAck | srDataFinal | srGcallDataAck | srStop | unrecognized =>
      exact hunknown

end

/-- Settles O41: the outcome row by row (`row_outcome`); the last access by the shape of the row's next state
(`RowNext.endsWithControl`). -/
theorem everyRowRaisesTheOutcomeOfTheTable : Obligations.EveryRowRaisesTheOutcomeOfTheTable := by
  intro s m e c l v hw _ hc hl hcl hv ho
  obtain ⟨t, ht, htable⟩ := row_outcome m e hc hl hcl hv ho
  rw [← htable]
  cases (row_cases ht).endsWithControl hw with
  | arm hsame hlast hcr => exact ⟨t, _, ht, rfl, hlast, absurd (hsame.trans ho), fun _ => .inl ⟨rfl, hcr⟩⟩
  | nack hsame hlast hcr => exact ⟨t, _, ht, rfl, hlast, absurd (hsame.trans ho), fun _ => .inr ⟨rfl, hcr⟩⟩
  | disarm hne hlast hcr => exact ⟨t, _, ht, rfl, hlast, fun _ => ⟨rfl, hcr⟩, fun hn => absurd hn hne⟩

end Sys2Proof.Machine
end

section
/-! R221 to R223: the state after reset, for any parameters and any bytes in the three unspecified registers, and the
invariant that holds there. -/

namespace Sys2Proof.Machine

/-- Settles O9: `State.boot` holds the values of R221 field by field, and `State.reset` is one of its states. -/
theorem resetLeavesTheStatedValues : Obligations.ResetLeavesTheStatedValues :=
  ⟨⟨_, _, _, rfl⟩, fun _ _ _ _ => ⟨rfl, rfl, rfl, rfl, rfl, rfl, rfl, rfl, rfl, rfl, isDisarmed_disarmed false⟩⟩

/-- U13: a legal slave address fits the seven bits of `addr7`. -/
theorem toNat_slaveAddr {p : Params} (h : p.wf = true) : (BitVec.ofNat 7 p.slaveAddr).toNat = p.slaveAddr := by
  obtain ⟨-, -, -, -, hfits⟩ := (Params.wf_iff p).1 h
  exact (BitVec.toNat_ofNat _ 7).trans (Nat.mod_eq_of_lt (of_decide_eq_true hfits))

/-- R221, R10: in IDLE, disarmed, without an outcome and with empty records, only the configuration and `addr7` are left
to show. -/
theorem Inv.boot {p : Params} (h : p.wf = true) (ar sr dr : Byte) : Inv (State.boot p ar sr dr) where
  cfgOk := h
  addr := toNat_slaveAddr h
  bufWf := rfl
  noMaster := ⟨rfl, rfl⟩
  enables := ⟨rfl, id⟩
  outside _ := ⟨rfl, rfl, rfl, rfl, rfl⟩
  inside hbusy := absurd rfl hbusy
  decoded := nofun
  undecided _ := rfl
  decided := nofun
  returning := nofun
  neverNotImplemented := nofun
  levelKeepsNoPulse _ := rfl
  deliveries := List.forall_mem_nil _
  accesses := List.forall_mem_nil _

/-- R222: nothing has been read, nothing is pending, and no row is about to run. -/
theorem Sourced.boot (p : Params) (ar sr dr : Byte) : Sourced (State.boot p ar sr dr) where
  reads := rfl
  status := nofun
  pending := nofun
  acting := nofun

/-- Settles O43: `Inv.boot` and `Sourced.boot`, and the default configuration is a legal one. -/
theorem resetMeetsTheInvariant : Obligations.ResetMeetsTheInvariant :=
  ⟨fun p ar sr dr hw => ⟨Inv.boot hw ar sr dr, Sourced.boot p ar sr dr⟩,
    Inv.boot (by decide) _ _ _, Sourced.boot _ _ _ _⟩

end Sys2Proof.Machine
end

section
/-! R241 with the pulse request (D9, log entry 9): `signal()` runs once for a pulse, and a pulse used up before the clear
leaves a call that waits for ever with its event pending. -/

namespace Sys2Proof.Machine

/-! ### The pulse request and `signal()` -/

/-- D9, R200: the pulse request is the pulse not yet handled, under `INT_EN` and the host's mask. -/
theorem irq_pulse {s : State} (hk : s.cfg.irqKind = .pulse) : irq s = (s.edge && s.cr.intEn && s.cfg.globalIe) := by
  simp [irq, hk]

/-- D9: without a pulse there is no pulse request, whether or not an event is pending. -/
theorem irq_pulse_of_no_edge {s : State} (hk : s.cfg.irqKind = .pulse) (he : s.edge = false) : irq s = false := by
  simp [irq_pulse hk, he]

/-- The state after a `signal()` that is made, in full, under the pulse kind: the pulse is used up. -/
theorem signalStep_pulse {s : State} (hk : s.cfg.irqKind = .pulse) (h : irq s = true) :
    signalStep s = { s with flag := true, edge := false, trace := .signal :: s.trace } := by
  simp [signalStep, h, hk, State.record]

/-- Settles O18: the first `signal()` uses up the pulse (`signalStep_pulse`), so the second finds no request. -/
theorem pulseSignalRunsOnce : Obligations.PulseSignalRunsOnce := by
  intro s hk hg hen he
  have hirq : irq s = true := by simp [irq_pulse hk, he, hen, hg]
  exact ⟨_, congrArg Host.Outcome.next (signalStep_pulse hk hirq), rfl,
    congrArg Host.Outcome.next (signalStep_eq_self (irq_pulse_of_no_edge hk rfl))⟩

/-! ### The lost event -/

/-- R241: a call in WAIT with the flag false and an event pending whose pulse is used up, and no scheduled move left. The
pending event keeps the bus environment from making another (R65). -/
structure LostEvent (s : State) : Prop where
  cfgOk : s.cfg.wf = true
  kind : s.cfg.irqKind = .pulse
  phase : s.phase = .wait
  flag : s.flag = false
  pending : s.cr.int = true
  used : s.edge = false
  agenda : s.agenda = []

/-- No request stands, so the free schedule steps the engine, which observes the false flag and stays. -/
theorem LostEvent.step {s : State} (h : LostEvent s) : ∃ t, step s = .next t ∧ LostEvent t := by
  have hstep := (step_free_engine h.cfgOk h.agenda (.inl (irq_pulse_of_no_edge h.kind h.used))).trans
    (engineStep_wait h.phase)
  exact ⟨_, hstep, { h with phase := by simp [h.flag], agenda := rfl }⟩

/-- The event stays lost for any number of steps. -/
theorem LostEvent.run (n : Nat) {s : State} (h : LostEvent s) : ∃ t, core.run n s = .next t ∧ LostEvent t := by
  induction n generalizing s with
  | zero => exact ⟨s, rfl, h⟩
  | succ n ih =>
    obtain ⟨u, hstep, hu⟩ := h.step
    obtain ⟨t, hrun, ht⟩ := ih hu
    exact ⟨t, (run_next hstep).trans hrun, ht⟩

/-- R135, R241: the CLEAR step of a call without an outcome erases the flag and leaves the event pending. -/
theorem step_clear_lostEvent {s : State} {gs : List (List EnvMove)} (hw : s.cfg.wf = true)
    (hk : s.cfg.irqKind = .pulse) (hp : s.phase = .clear) (ho : s.outcome = none) (hint : s.cr.int = true)
    (he : s.edge = false) (ha : s.agenda = [.engine gs]) : ∃ t, step s = .next t ∧ LostEvent t :=
  ⟨_, (step_engine hw ha).trans (engineStep_clear hp), ⟨hw, hk, if_pos ho, rfl, hint, he, rfl⟩⟩

/-- Settles O55: the clear loses the event (`step_clear_lostEvent`), and it stays lost (`LostEvent.run`). -/
theorem pulseRequestIsLostByTheClear : Obligations.PulseRequestIsLostByTheClear := by
  intro n s gs hw hk hp ho hint he ha
  obtain ⟨u, hclear, hu⟩ := step_clear_lostEvent hw hk hp ho hint he ha
  obtain ⟨t, hrun, ht⟩ := hu.run n
  exact ⟨t, (run_next hclear).trans hrun, ht.phase, ht.flag, ht.pending⟩

end Sys2Proof.Machine
end
